-- ==== Sys2Proof/Config.lean ====
section
/-! DEFINITION. The constants of the block (`00_scope.md` R5). The spec leaves no value open, so there is no free value and
no parameter here: the widths are numbers, not arguments (R6). -/

namespace Sys2Proof.Config

/-- Width of each operand, `A` and `B` (R5). -/
abbrev operandBits : Nat := 2

/-- Width of the opcode `OP` (R5). -/
abbrev opcodeBits : Nat := 3

/-- Width of the result `R` (R5). -/
abbrev resultBits : Nat := 2

/-- Bits of the stimulus word, all seven input bits (`30_encoding.md` R45). -/
abbrev stimulusBits : Nat := opcodeBits + operandBits + operandBits

end Sys2Proof.Config
end

