-- ==== Sys2Proof/Word.lean ====
section
/-! DEFINITION. The values that stand on the ports: bits, vectors, the label, and the input and output triples. -/

namespace Sys2Proof

/-- A Bit is a boolean, with no third value (`00_scope.md` R7, log entry 10). -/
abbrev Bit := Bool

/-- An operand `[bit1, bit0]`, read as an unsigned number 0 to 3 (`00_scope.md` R8). Bit 1 is the most significant. -/
abbrev Operand := BitVec 2

/-- A result `[out1, out0]`, with the operand's bit order (`00_scope.md` R8). -/
abbrev Result := BitVec 2

/-- An opcode `[s2, s1, s0]`, read as an unsigned number 0 to 7 (`00_scope.md` R8). -/
abbrev Opcode := BitVec 3

/-- The stimulus word `W[6:0] = {OP, A, B}` of the spec's tables (`30_encoding.md` R45). -/
abbrev Stimulus := BitVec 7

/-- The operation label (`10_state.md` R14, `30_encoding.md` R43): seven names, with no characters and no code
(log entry 5). -/
inductive Label where
  | AND | OR | XOR | NOT | ADD | SUB | UNKNOWN
  deriving DecidableEq, Repr

/-- The seven input bits, driven by the host (`10_state.md` R13). -/
structure Inputs where
  A : Operand
  B : Operand
  OP : Opcode
  deriving DecidableEq, Repr

/-- The three outputs, driven by the block (`10_state.md` R14). -/
structure Outputs where
  R : Result
  F : Bit
  LABEL : Label
  deriving DecidableEq, Repr

end Sys2Proof
end

