-- ==== Sys2Proof/Machine/Operands.lean ====
section
/-! DEFINITION. Reading the bits of a vector and building a vector from bits, with the value functions of the spec's derived
laws (`00_scope.md` section 5.3). Every operand is used exactly as presented: two bits, unsigned (`30_encoding.md` R46). -/

namespace Sys2Proof.Machine

/-- The pair `[hi, lo]`, `hi` in the more significant place (`00_scope.md` R8, R9). -/
def vec (hi lo : Bit) : BitVec 2 := BitVec.ofBool hi ++ BitVec.ofBool lo

/-- The triple `[s2, s1, s0]`, `s2` the most significant (`00_scope.md` R8). -/
def vec3 (s2 s1 s0 : Bit) : BitVec 3 := BitVec.ofBool s2 ++ BitVec.ofBool s1 ++ BitVec.ofBool s0

/-- Bit 1, the more significant bit of a pair (`30_encoding.md` R41). -/
def bit1 (x : BitVec 2) : Bit := x.getLsbD 1

/-- Bit 0, the less significant bit of a pair (`30_encoding.md` R41). -/
def bit0 (x : BitVec 2) : Bit := x.getLsbD 0

/-- `s2`, of weight 4 (`30_encoding.md` R40). -/
def s2 (op : Opcode) : Bit := op.getLsbD 2

/-- `s1` of the opcode, of weight 2 (`30_encoding.md` R40). -/
def s1 (op : Opcode) : Bit := op.getLsbD 1

/-- `s0` of the opcode, of weight 1 (`30_encoding.md` R40). -/
def s0 (op : Opcode) : Bit := op.getLsbD 0

/-- `val(X)`, the unsigned value of a pair (`00_scope.md` R8, section 5.3). -/
def val (x : BitVec 2) : Nat := 2 * (bit1 x).toNat + (bit0 x).toNat

/-- `rev(X)`, the pair with its two bits exchanged (`00_scope.md` section 5.3). -/
def rev (x : BitVec 2) : BitVec 2 := vec (bit0 x) (bit1 x)

/-- `vec2(n mod 4)`, for an integer that may be negative (`00_scope.md` section 5.3). -/
def vec2 (n : Int) : BitVec 2 := BitVec.ofInt 2 n

end Sys2Proof.Machine
end

