-- ==== Sys2Proof/Syntax.lean ====
section
/-! DEFINITION. The instructions, one constructor per row of the opcode table; the spec's assembler line; and the raw bit
lists that stand outside the boundary of the block. -/

namespace Sys2Proof

/-- The eight opcode values with the two operands that stand beside them (`30_encoding.md` R39, R47). NOT carries `b`, and
UNK6 and UNK7 carry both operands, because the ignored bits are still part of the input (R49, R51). -/
inductive Instr where
  | and (a b : Operand)
  | or (a b : Operand)
  | xor (a b : Operand)
  | not (a b : Operand)
  | add (a b : Operand)
  | sub (a b : Operand)
  | unk6 (a b : Operand)
  | unk7 (a b : Operand)
  deriving DecidableEq, Repr

/-- The mnemonics of the spec's assembler (`30_encoding.md` R51). -/
inductive Mnemonic where
  | AND | OR | XOR | NOT | ADD | SUB | UNK6 | UNK7
  deriving DecidableEq, Repr

/-- Three bit lists as a caller may offer them, most significant bit first (`00_scope.md` R9), of any length: what the
interface boundary accepts or rejects (`20_memory.md` R29). -/
structure RawInputs where
  a : List Bit
  b : List Bit
  op : List Bit
  deriving DecidableEq, Repr

/-- One assembler line, `MNEMONIC a, b` or `MNEMONIC a, b -> r f` (`30_encoding.md` R51), its literals as lists of digits,
most significant first. -/
structure AsmLine where
  mnemonic : Mnemonic
  a : List Bit
  b : List Bit
  expected : Option (List Bit × Bit)
  deriving DecidableEq, Repr

end Sys2Proof
end

