-- ==== Sys2Proof/WellFormed.lean ====
section
/-! DEFINITION. Which inputs may reach the ports. A term of `Instr` is well formed by its type, since a wrong-length input
cannot be written with fixed-size operands (`20_memory.md` R29); so the checks are about what stands before the boundary:
the raw bit lists and the literals of an assembler line. -/

namespace Sys2Proof

/-- The list for port `A` has the port's two bits. -/
def RawInputs.wfA (r : RawInputs) : Bool := r.a.length == Config.operandBits

/-- The list for port `B` has the port's two bits. -/
def RawInputs.wfB (r : RawInputs) : Bool := r.b.length == Config.operandBits

/-- The list for port `OP` has the port's three bits. -/
def RawInputs.wfOP (r : RawInputs) : Bool := r.op.length == Config.opcodeBits

/-- No vector has a wrong length (`20_memory.md` R29, `93_implementation_defined.md` U3). -/
def RawInputs.wf (r : RawInputs) : Bool := r.wfA && r.wfB && r.wfOP

/-- The first literal of the line has two digits (`30_encoding.md` R51). -/
def AsmLine.wfA (l : AsmLine) : Bool := l.a.length == Config.operandBits

/-- The second literal of the line has two digits (`30_encoding.md` R51). -/
def AsmLine.wfB (l : AsmLine) : Bool := l.b.length == Config.operandBits

/-- The expected result, where the line gives one, has two digits (`30_encoding.md` R51). -/
def AsmLine.wfExpected (l : AsmLine) : Bool := l.expected.all fun e => e.1.length == Config.resultBits

/-- Every literal of the line has its width. -/
def AsmLine.wf (l : AsmLine) : Bool := l.wfA && l.wfB && l.wfExpected

end Sys2Proof
end

