-- ==== Sys2Proof/Decode.lean ====
section
/-! DEFINITION. The decoder and the encoder (`30_encoding.md`), and the boundary that rejects malformed input by name. -/

namespace Sys2Proof

open Sys2Proof.Machine (vec vec3 s2 s1 s0)

/-! ## The ports -/

/-- The instruction that stands on the ports (`30_encoding.md` R39, R47). The dispatch is by the integer value of the opcode
and by nothing else (`40_dispatch.md` R54); the eight arms are the eight values of `[s2, s1, s0]`. No value is illegal
(R48), so the ports always decode. -/
def decode (p : Inputs) : Instr :=
  match s2 p.OP, s1 p.OP, s0 p.OP with
  | false, false, false => .and p.A p.B
  | false, false, true => .or p.A p.B
  | false, true, false => .xor p.A p.B
  | false, true, true => .not p.A p.B
  | true, false, false => .add p.A p.B
  | true, false, true => .sub p.A p.B
  | true, true, false => .unk6 p.A p.B
  | true, true, true => .unk7 p.A p.B

/-- The opcode of each row (`30_encoding.md` R47) and the operands beside it, as the port values of the instruction. -/
def Instr.ports : Instr → Inputs
  | .and a b => ⟨a, b, 0b000#3⟩
  | .or a b => ⟨a, b, 0b001#3⟩
  | .xor a b => ⟨a, b, 0b010#3⟩
  | .not a b => ⟨a, b, 0b011#3⟩
  | .add a b => ⟨a, b, 0b100#3⟩
  | .sub a b => ⟨a, b, 0b101#3⟩
  | .unk6 a b => ⟨a, b, 0b110#3⟩
  | .unk7 a b => ⟨a, b, 0b111#3⟩

/-! ## The stimulus word -/

/-- `W[6:0] = {OP[2:0], A[1:0], B[1:0]}` (`30_encoding.md` R45). -/
def Inputs.stimulus (p : Inputs) : Stimulus := p.OP ++ p.A ++ p.B

/-- The three fields of a stimulus word: the opcode in `W[6:4]`, A in `W[3:2]`, B in `W[1:0]` (`30_encoding.md` R45). -/
def Inputs.ofStimulus (w : Stimulus) : Inputs :=
  ⟨w.extractLsb' 2 2, w.extractLsb' 0 2, w.extractLsb' 4 3⟩

/-- The stimulus word of an instruction. -/
def encode (i : Instr) : Stimulus := i.ports.stimulus

/-- The instruction of a stimulus word: every one of the 128 words has one (`30_encoding.md` R48). -/
def decodeStimulus (w : Stimulus) : Instr := decode (.ofStimulus w)

/-! ## Bytes (log entry 3) -/

/-- Why a list of bytes is no instruction. -/
inductive DecodeReject where
  /-- No byte was given. -/
  | noWord
  /-- Bit 7 is set: eight bits are a wrong-length vector for the seven input bits (`20_memory.md` R29). -/
  | notAStimulusWord
  deriving DecidableEq, Repr

/-- The instruction that the first byte holds, with the bytes after it; rejected by name where there is none. -/
def decodeBytes : List (BitVec 8) → Except DecodeReject (Instr × List (BitVec 8))
  | [] => .error .noWord
  | x :: rest =>
    if x.toNat < 2 ^ Config.stimulusBits then .ok (decodeStimulus (x.setWidth 7), rest) else .error .notAStimulusWord

/-- The byte of an instruction: its stimulus word with bit 7 zero. -/
def encodeBytes (i : Instr) : List (BitVec 8) := [(encode i).setWidth 8]

/-- The low `n` bytes of a number, the least significant first. -/
def littleEndian : Nat → Nat → List (BitVec 8)
  | 0, _ => []
  | n + 1, w => BitVec.ofNat 8 w :: littleEndian n (w / 256)

/-- The bytes of a table word of `nbits` bits, at least one byte. DESIGN CHOICE, safe (log entry 13): every bit above `nbits` is
taken as zero, so that bits of `w` there are dropped and a word of fewer than seven bits is extended with zeros. -/
def tableBytes (nbits w : Nat) : List (BitVec 8) := littleEndian (max 1 ((nbits + 7) / 8)) (w % 2 ^ nbits)

/-- The instruction of a table word, none where the decoder rejects it or where bytes are left over: every instruction has the
one length (`30_encoding.md` R50). DESIGN CHOICE, safe (log entry 13): a word given with fewer than seven bits is no wrong-length
vector here but the stimulus word with zeros above those bits. -/
def decodeTableWord (nbits w : Nat) : Option Instr :=
  match decodeBytes (tableBytes nbits w) with
  | .ok (i, []) => some i
  | _ => none

/-! ## The interface boundary (`20_memory.md` R29, log entry 10) -/

/-- Why a caller's input does not reach the ports. -/
inductive BoundaryReject where
  /-- The vector for `A` is not two bits long. -/
  | wrongLengthA
  /-- The vector for `B` is not two bits long. -/
  | wrongLengthB
  /-- The vector for `OP` is not three bits long. -/
  | wrongLengthOP
  /-- The expected result of an assembler line is not two bits long. -/
  | wrongLengthExpected
  deriving DecidableEq, Repr

/-- A pair from its written order, most significant bit first (`00_scope.md` R9). -/
def pairOfBits : List Bit → Option (BitVec 2)
  | [hi, lo] => some (vec hi lo)
  | _ => none

/-- A triple from its written order, most significant bit first (`00_scope.md` R9). -/
def tripleOfBits : List Bit → Option (BitVec 3)
  | [x2, x1, x0] => some (vec3 x2 x1 x0)
  | _ => none

/-- The port values of a caller's bit lists; a wrong length is rejected at the boundary and not at run time
(`20_memory.md` R29). -/
def accept (r : RawInputs) : Except BoundaryReject Inputs :=
  match pairOfBits r.a, pairOfBits r.b, tripleOfBits r.op with
  | none, _, _ => .error .wrongLengthA
  | some _, none, _ => .error .wrongLengthB
  | some _, some _, none => .error .wrongLengthOP
  | some a, some b, some op => .ok ⟨a, b, op⟩

/-- The instruction a mnemonic selects, in the order of the opcode values (`30_encoding.md` R51). -/
def Mnemonic.instr (a b : Operand) : Mnemonic → Instr
  | .AND => .and a b
  | .OR => .or a b
  | .XOR => .xor a b
  | .NOT => .not a b
  | .ADD => .add a b
  | .SUB => .sub a b
  | .UNK6 => .unk6 a b
  | .UNK7 => .unk7 a b

/-- The instruction of an assembler line (`30_encoding.md` R51); `.wrongLength…` where a literal has the wrong number of
digits. -/
def assemble (l : AsmLine) : Except BoundaryReject Instr :=
  match pairOfBits l.a, pairOfBits l.b with
  | none, _ => .error .wrongLengthA
  | some _, none => .error .wrongLengthB
  | some a, some b => if l.wfExpected then .ok (l.mnemonic.instr a b) else .error .wrongLengthExpected

end Sys2Proof
end

