-- ==== Sys2Proof/Machine/State.lean ====
section
/-! DEFINITION. The state: the block's own, which is the record with no fields (`10_state.md` R12), and beside it the values
that stand on the ports (log entry 1). -/

namespace Sys2Proof.Machine

/-- What the block itself holds: the record with no fields. Nothing is retained from one evaluation to the next
(`10_state.md` R12, R23). -/
structure Arch where
  deriving DecidableEq, Repr

/-- The block, and the values on the six ports: the three that the host drives and holds steady (`10_state.md` R13, R24) and the
three that the block drives (R14). `outputs` is no storage of the block: it follows `inputs` (R15), in every state that power-up,
the host and the step can give. -/
structure State where
  arch : Arch
  inputs : Inputs
  outputs : Outputs
  deriving DecidableEq, Repr

/-- No fault exists: the evaluator never raises an exception-equivalent condition (`60_exceptions.md` R88). Nothing raises
one, so there is nothing to call safe or unsafe. -/
inductive Fault where
  deriving DecidableEq, Repr

/-- No refusal exists either (`60_exceptions.md` R88): this is the refusal type of the model's evaluation step and of everything built
on it (`blockExec`, `block`, `blockStep`, `blockCore`, `State.evaluation`, `hostRun`), and nothing raises one. -/
inductive BlockRefusal where
  deriving DecidableEq, Repr

/-- The refusal type of the interface (`exec`, `step`, `core`), whose one constructor the interface fixes (log entry 7). -/
inductive Refusal where
  /-- An instruction without a meaning, by its mnemonic. Only an arm of `exec` could answer with it and none does; it would
  be safe, since the model would stop where the hardware goes on (log entry 7). -/
  | notModelled (mnemonic : String)
  deriving DecidableEq, Repr

/-- Power-up. Nothing has a reset value (`10_state.md` R25). The input ports are the host's: DESIGN CHOICE, unsafe, all zero
(log entry 2). The outputs are `evaluate` of those inputs (`70_reset_and_hazards.md` R101). -/
def State.reset : State where
  arch := ⟨⟩
  inputs := ⟨0b00#2, 0b00#2, 0b000#3⟩
  outputs := ⟨0b00#2, false, .AND⟩

end Sys2Proof.Machine
end

