-- ==== Sys2Proof/Machine/Ops.lean ====
section
/-! DEFINITION. The named operations: the gates with more than one operator, and driving the output ports. There is no
memory, no register and no exception to take or return from (`20_memory.md` R26, `10_state.md` R16, `60_exceptions.md` R88,
R91, R92), so there is no operation for one. -/

namespace Sys2Proof.Machine

/-- A three-operand XOR: two binary XORs taken left to right (`00_scope.md` R11). -/
def xor3 (x y z : Bit) : Bit := (x ^^ y) ^^ z

/-- The carry output of a full-adder position (`42_add.md` R67, `43_sub.md` R73). -/
def carry (x y cin : Bit) : Bit := (x && y) || ((x || y) && cin)

/-- The block drives its three output ports, and no other port (`10_state.md` R13, R14). -/
def State.drive (s : State) (o : Outputs) : State := { s with outputs := o }

end Sys2Proof.Machine
end

