-- ==== Sys2Proof/Machine/Flags.lean ====
section
/-! DEFINITION. The one flag `F`, as each operation drives it (`10_state.md` R18). No operation reads it (R19), and there is no
other flag. -/

namespace Sys2Proof.Machine

/-- AND, OR, XOR and NOT drive 0 (`41_logic.md` R64). -/
def logicFlag : Bit := false

/-- ADD drives `cf`, which uses the operands' bit 0 and the carry out of bit 0, as the source wires it (`42_add.md` R66); it is
not the carry out of the sum (`90_conflicts.md` C4, log entry 4). -/
def addFlag (a0 b0 c0 : Bit) : Bit := carry a0 b0 c0

/-- SUB drives `bf`, the complement of the carry out of its second position (`43_sub.md` R72). -/
def subFlag (c_out : Bit) : Bit := !c_out

/-- Opcodes 6 and 7 drive 0 (`44_unknown.md` R80). -/
def fallbackFlag : Bit := false

end Sys2Proof.Machine
end

