-- ==== Sys2Proof/Machine/Nets.lean ====
section
/-! DEFINITION. The named internal nets of the units (`10_state.md` R23): combinational signals, each a function of the
present inputs and none a field of the state. -/

namespace Sys2Proof.Machine

/-- The nets of the bitwise logic unit (`41_logic.md` R60 to R63). -/
structure LogicNets where
  and1 : Bit
  and0 : Bit
  or1 : Bit
  or0 : Bit
  xor1 : Bit
  xor0 : Bit
  not1 : Bit
  not0 : Bit
  deriving DecidableEq, Repr

/-- The nets of the ripple-carry adder (`42_add.md` R66). -/
structure AdderNets where
  s0 : Bit
  c0 : Bit
  s1 : Bit
  cf : Bit
  deriving DecidableEq, Repr

/-- The nets of the two's-complement subtractor (`43_sub.md` R72). -/
structure SubtractorNets where
  nb1 : Bit
  nb0 : Bit
  d_first : Bit
  c_first : Bit
  d_second : Bit
  c_out : Bit
  bf : Bit
  deriving DecidableEq, Repr

end Sys2Proof.Machine
end

