-- ==== Sys2Proof/Machine/Adder.lean ====
section
/-! DEFINITION. The ripple-carry adder and the meaning of ADD (`42_add.md`). It shares no net with the subtractor (R68). -/

namespace Sys2Proof.Machine

/-- The nets of the adder: the carry ripples from bit 0 to bit 1 (`42_add.md` R66, R67). -/
def adder (a b : Operand) : AdderNets :=
  let s0 := bit0 a ^^ bit0 b
  let c0 := bit0 a && bit0 b
  let s1 := xor3 (bit1 a) (bit1 b) c0
  let cf := addFlag (bit0 a) (bit0 b) c0
  ⟨s0, c0, s1, cf⟩

/-- The outputs of ADD, opcode 4 (`42_add.md` R66). -/
def addOutputs (a b : Operand) : Outputs := ⟨vec (adder a b).s1 (adder a b).s0, (adder a b).cf, .ADD⟩

/-- ADD (`42_add.md` R66). -/
def execAdd (a b : Operand) (s : State) : Host.Outcome State Fault Refusal := .next (s.drive (addOutputs a b))

end Sys2Proof.Machine
end

