-- ==== Sys2Proof/Machine/Fallback.lean ====
section
/-! DEFINITION. The fallback and the meanings of UNK6 and UNK7 (`44_unknown.md`). It is an ordinary evaluation: no fault and no
refusal (R81, `90_conflicts.md` C9). -/

namespace Sys2Proof.Machine

/-- The constant outputs of opcodes 6 and 7 (`44_unknown.md` R80). -/
def fallback : Outputs := ⟨vec false false, fallbackFlag, .UNKNOWN⟩

/-- UNK6, opcode 6: both operands are ignored (`44_unknown.md` R80). -/
def execUnk6 (_a _b : Operand) (s : State) : Host.Outcome State Fault Refusal := .next (s.drive fallback)

/-- UNK7, opcode 7: both operands are ignored (`44_unknown.md` R80). -/
def execUnk7 (_a _b : Operand) (s : State) : Host.Outcome State Fault Refusal := .next (s.drive fallback)

end Sys2Proof.Machine
end

