-- ==== Sys2Proof/Machine/Logic.lean ====
section
/-! DEFINITION. The bitwise logic unit and the meanings of AND, OR, XOR and NOT (`41_logic.md`). -/

namespace Sys2Proof.Machine

/-- The nets of the logic unit: two one-bit lanes with no connection between them (`41_logic.md` R60 to R64). -/
def logicUnit (a b : Operand) : LogicNets where
  and1 := bit1 a && bit1 b
  and0 := bit0 a && bit0 b
  or1 := bit1 a || bit1 b
  or0 := bit0 a || bit0 b
  xor1 := bit1 a ^^ bit1 b
  xor0 := bit0 a ^^ bit0 b
  not1 := !bit1 a
  not0 := !bit0 a

/-- The outputs of AND, opcode 0 (`41_logic.md` R60). -/
def andOutputs (a b : Operand) : Outputs := ⟨vec (logicUnit a b).and1 (logicUnit a b).and0, logicFlag, .AND⟩

/-- The outputs of OR, opcode 1 (`41_logic.md` R61). -/
def orOutputs (a b : Operand) : Outputs := ⟨vec (logicUnit a b).or1 (logicUnit a b).or0, logicFlag, .OR⟩

/-- The outputs of XOR, opcode 2 (`41_logic.md` R62). -/
def xorOutputs (a b : Operand) : Outputs := ⟨vec (logicUnit a b).xor1 (logicUnit a b).xor0, logicFlag, .XOR⟩

/-- The outputs of NOT, opcode 3: it complements A and ignores B (`41_logic.md` R63). -/
def notOutputs (a b : Operand) : Outputs := ⟨vec (logicUnit a b).not1 (logicUnit a b).not0, logicFlag, .NOT⟩

/-- AND (`41_logic.md` R60). -/
def execAnd (a b : Operand) (s : State) : Host.Outcome State Fault Refusal := .next (s.drive (andOutputs a b))

/-- OR (`41_logic.md` R61). -/
def execOr (a b : Operand) (s : State) : Host.Outcome State Fault Refusal := .next (s.drive (orOutputs a b))

/-- XOR (`41_logic.md` R62). -/
def execXor (a b : Operand) (s : State) : Host.Outcome State Fault Refusal := .next (s.drive (xorOutputs a b))

/-- NOT (`41_logic.md` R63). -/
def execNot (a b : Operand) (s : State) : Host.Outcome State Fault Refusal := .next (s.drive (notOutputs a b))

end Sys2Proof.Machine
end

