-- ==== Sys2Proof/Machine/Subtractor.lean ====
section
/-! DEFINITION. The two's-complement subtractor and the meaning of SUB (`43_sub.md`). -/

namespace Sys2Proof.Machine

/-- The nets of the subtractor: the constant 1 enters at bit 1, and the carry ripples from bit 1 to bit 0 (`43_sub.md` R72,
R73; log entry 4). -/
def subtractor (a b : Operand) : SubtractorNets :=
  let nb1 := !bit1 b
  let nb0 := !bit0 b
  let d_first := xor3 (bit1 a) nb1 true
  let c_first := carry (bit1 a) nb1 true
  let d_second := xor3 (bit0 a) nb0 c_first
  let c_out := carry (bit0 a) nb0 c_first
  let bf := subFlag c_out
  ⟨nb1, nb0, d_first, c_first, d_second, c_out, bf⟩

/-- The outputs of SUB, opcode 5: each result bit is driven from the operand bits of its own index (`43_sub.md` R72,
`90_conflicts.md` C6). -/
def subOutputs (a b : Operand) : Outputs :=
  ⟨vec (subtractor a b).d_first (subtractor a b).d_second, (subtractor a b).bf, .SUB⟩

/-- SUB (`43_sub.md` R72). -/
def execSub (a b : Operand) (s : State) : Host.Outcome State Fault Refusal := .next (s.drive (subOutputs a b))

end Sys2Proof.Machine
end

