-- ==== Sys2Proof/Machine/Dispatch.lean ====
section
/-! DEFINITION. The dispatch, one arm per opcode value (`40_dispatch.md` R54, `30_encoding.md` R47). -/

namespace Sys2Proof.Machine

-- The rule of each arm's meaning stands at the meaning's own definition.
def exec (i : Instr) (s : State) : Host.Outcome State Fault Refusal :=
  match i with
  | .and a b => Sys2Proof.Machine.execAnd a b s
  | .or a b => Sys2Proof.Machine.execOr a b s
  | .xor a b => Sys2Proof.Machine.execXor a b s
  | .not a b => Sys2Proof.Machine.execNot a b s
  | .add a b => Sys2Proof.Machine.execAdd a b s
  | .sub a b => Sys2Proof.Machine.execSub a b s
  | .unk6 a b => Sys2Proof.Machine.execUnk6 a b s
  | .unk7 a b => Sys2Proof.Machine.execUnk7 a b s

end Sys2Proof.Machine
end

