-- ==== Sys2Proof/Machine/Block.lean ====
section
/-! DEFINITION. The block as the spec types it: its state is the record with no fields (`10_state.md` R12), its evaluation step has
one outcome, and its fault and refusal types have no constructors (`60_exceptions.md` R88). The ports follow it (R15). -/

namespace Sys2Proof.Machine

/-- No arm of the dispatch refuses (`60_exceptions.md` R88), which is what lets `blockExec` drop the interface's refusal type. -/
theorem exec_ne_refused (i : Instr) (s : State) (r : Refusal) : exec i s ≠ .refused r := by
  cases i <;> nofun

/-- An outcome that is no refusal, in the spec's types. -/
def unrefused : (x : Host.Outcome State Fault Refusal) → (∀ r, x ≠ .refused r) → Host.Outcome State Fault BlockRefusal
  | .next t, _ => .next t
  | .fault f, _ => .fault f
  | .refused r, h => absurd rfl (h r)

/-- The meaning of an instruction in the spec's types, which leave it no fault and no refusal (`60_exceptions.md` R88). -/
def blockExec (i : Instr) (s : State) : Host.Outcome State Fault BlockRefusal := unrefused (exec i s) (exec_ne_refused i s)

/-- One evaluation of the block: from the empty record and the input triple, the empty record and the output triple of the
instruction that the inputs are (`40_dispatch.md` R53). No meaning reads the outputs it starts from (`10_state.md` R15), so any
stand there. -/
def block (m : Arch) (p : Inputs) : Host.Outcome (Arch × Outputs) Fault BlockRefusal :=
  match blockExec (decode p) ⟨m, p, fallback⟩ with
  | .next t => .next (t.arch, t.outputs)
  | .fault f => .fault f
  | .refused r => .refused r

/-- The host drives the seven input bits (`10_state.md` R13), and the outputs follow at once (R15): there is no instant at which
the ports hold new inputs and old outputs (`93_implementation_defined.md` U9). -/
def State.present (s : State) (p : Inputs) : State :=
  match block s.arch p with
  | .next (m, o) => ⟨m, p, o⟩
  | .fault f => nomatch f
  | .refused r => nomatch r

/-- The evaluation step of the model, in the spec's types (`60_exceptions.md` R88): the block evaluates the inputs that stand on the
ports, and the outputs stay as they are where they already follow the inputs (`20_memory.md` R30). There is no fetch and no program
counter (`10_state.md` R17). -/
def blockStep (s : State) : Host.Outcome State Fault BlockRefusal :=
  match block s.arch s.inputs with
  | .next (m, o) => .next ⟨m, s.inputs, o⟩
  | .fault f => .fault f
  | .refused r => .refused r

/-- The machine in the spec's types: no fault and no refusal exists (`60_exceptions.md` R88). -/
def blockCore : Host.Core :=
  { State := State,
    Fault := Fault,
    Refusal := BlockRefusal,
    step := blockStep,
    reset := State.reset }

end Sys2Proof.Machine
end

