-- ==== Sys2Proof/Machine/Step.lean ====
section
/-! DEFINITION. The step: one evaluation of the inputs that stand on the ports (`40_dispatch.md` R53). -/

namespace Sys2Proof.Machine

/-- The block's evaluation step, `blockStep`, in the interface's types: the interface fixes a refusal type that is not empty
(log entry 7), and no refusal comes out of the block's. -/
def step (s : State) : Host.Outcome State Fault Refusal :=
  match blockStep s with
  | .next t => .next t
  | .fault f => .fault f
  | .refused r => nomatch r

/-- The host drives the ports with the stimulus word `w` (log entry 6). A word that is no instruction cannot be presented, and
the ports stay as they are. DESIGN CHOICE, safe: a word of fewer than seven bits is presented with zeros above it, and bits of `w`
above `nbits` are dropped (log entry 13). -/
def State.withFetchWord (s : State) (nbits w : Nat) : State :=
  match decodeTableWord nbits w with
  | some i => s.present i.ports
  | none => s

end Sys2Proof.Machine
end

