-- ==== Sys2Proof/Machine/Circuit.lean ====
section
/-! DEFINITION. The structural reading (`40_dispatch.md` R55 to R58, log entry 9): a one-hot decoder, all units computed for
every input, and an AND-OR selection onto the ports. -/

namespace Sys2Proof.Machine

/-- The 8-way opcode decoder, `SEL[7:0]` (`40_dispatch.md` R55). -/
def SEL (op : Opcode) : BitVec 8 :=
  let x2 := s2 op
  let x1 := s1 op
  let x0 := s0 op
  BitVec.ofBool ((x2 && x1) && x0) ++ BitVec.ofBool ((x2 && x1) && !x0) ++
  BitVec.ofBool ((x2 && !x1) && x0) ++ BitVec.ofBool ((x2 && !x1) && !x0) ++
  BitVec.ofBool ((!x2 && x1) && x0) ++ BitVec.ofBool ((!x2 && x1) && !x0) ++
  BitVec.ofBool ((!x2 && !x1) && x0) ++ BitVec.ofBool ((!x2 && !x1) && !x0)

/-- The label carried by the select lines (`40_dispatch.md` R56). -/
def selectedLabel (op : Opcode) : Label :=
  if (SEL op).getLsbD 0 then .AND
  else if (SEL op).getLsbD 1 then .OR
  else if (SEL op).getLsbD 2 then .XOR
  else if (SEL op).getLsbD 3 then .NOT
  else if (SEL op).getLsbD 4 then .ADD
  else if (SEL op).getLsbD 5 then .SUB
  else .UNKNOWN

/-- Output selection (`40_dispatch.md` R57): at most one term of each OR is non-zero, and `SEL[6]` and `SEL[7]` stand in
none. -/
def circuit (p : Inputs) : Outputs :=
  let sel := fun k => (SEL p.OP).getLsbD k
  let l := logicUnit p.A p.B
  let d := adder p.A p.B
  let u := subtractor p.A p.B
  let r1 := (((((sel 0 && l.and1) || (sel 1 && l.or1)) || (sel 2 && l.xor1)) || (sel 3 && l.not1)) || (sel 4 && d.s1)) ||
    (sel 5 && u.d_first)
  let r0 := (((((sel 0 && l.and0) || (sel 1 && l.or0)) || (sel 2 && l.xor0)) || (sel 3 && l.not0)) || (sel 4 && d.s0)) ||
    (sel 5 && u.d_second)
  let f := (sel 4 && d.cf) || (sel 5 && u.bf)
  ⟨vec r1 r0, f, selectedLabel p.OP⟩

end Sys2Proof.Machine
end

