-- ==== Sys2Proof/Machine/Evaluate.lean ====
section
/-! DEFINITION. The whole evaluator in one place, as `40_dispatch.md` section 5 lists it: the function that the machine is held
to. It does not go through the decoder, the units or the dispatch. -/

namespace Sys2Proof.Machine

/-- `LABEL` from the opcode's integer value alone (`40_dispatch.md` R56). -/
def labelOf (op : Opcode) : Label :=
  match op.toNat with
  | 0 => .AND
  | 1 => .OR
  | 2 => .XOR
  | 3 => .NOT
  | 4 => .ADD
  | 5 => .SUB
  | _ => .UNKNOWN

/-- `(R, F, LABEL) = evaluate(A, B, OP)` (`40_dispatch.md` R53 and section 5). The last arm is `val(OP)` 6 and 7, the only
values left. -/
def evaluate (p : Inputs) : Outputs :=
  let a1 := p.A.getLsbD 1
  let a0 := p.A.getLsbD 0
  let b1 := p.B.getLsbD 1
  let b0 := p.B.getLsbD 0
  match p.OP.toNat with
  | 0 => ⟨vec (a1 && b1) (a0 && b0), false, labelOf p.OP⟩
  | 1 => ⟨vec (a1 || b1) (a0 || b0), false, labelOf p.OP⟩
  | 2 => ⟨vec (a1 ^^ b1) (a0 ^^ b0), false, labelOf p.OP⟩
  | 3 => ⟨vec (!a1) (!a0), false, labelOf p.OP⟩
  | 4 =>
    let s0 := a0 ^^ b0
    let c0 := a0 && b0
    let s1 := (a1 ^^ b1) ^^ c0
    let cf := (a0 && b0) || ((a0 || b0) && c0)
    ⟨vec s1 s0, cf, labelOf p.OP⟩
  | 5 =>
    let nb1 := !b1
    let nb0 := !b0
    let d_first := (a1 ^^ nb1) ^^ true
    let c_first := (a1 && nb1) || ((a1 || nb1) && true)
    let d_second := (a0 ^^ nb0) ^^ c_first
    let c_out := (a0 && nb0) || ((a0 || nb0) && c_first)
    ⟨vec d_first d_second, !c_out, labelOf p.OP⟩
  | _ => ⟨vec false false, false, labelOf p.OP⟩

end Sys2Proof.Machine
end

