-- ==== Sys2Proof/Machine/Run.lean ====
section
/-! DEFINITION. The host's side of the interface: one evaluation of inputs it presents, and a run, the list of its evaluations
(`70_reset_and_hazards.md` R103, R104; log entry 12). -/

namespace Sys2Proof.Machine

/-- The host presents `p` and lets the block evaluate, in the spec's types (`60_exceptions.md` R88). -/
def State.evaluation (s : State) (p : Inputs) : Host.Outcome State Fault BlockRefusal := blockStep (s.present p)

/-- The output triple that the host reads back, if the evaluation completes. -/
def State.respond (s : State) (p : Inputs) : Option Outputs :=
  match s.evaluation p with
  | .next t => some t.outputs
  | .fault _ => none
  | .refused _ => none

/-- The result bits the host reads back for opcode `op` on `a` and `b`: what it may feed into a later evaluation
(`92_eei_decisions.md` D11). -/
def State.resultOf (s : State) (op : Opcode) (a b : Operand) : Option Result := (s.respond ⟨a, b, op⟩).map (·.R)

/-- A run: the host presents its input triples one after another and records the output triples in order
(`70_reset_and_hazards.md` R104). It answers the ports after the last evaluation, and the record. -/
def hostRun : List Inputs → State → Host.Outcome (State × List Outputs) Fault BlockRefusal
  | [], s => .next (s, [])
  | p :: ps, s =>
    match s.evaluation p with
    | .next t =>
      match hostRun ps t with
      | .next (u, os) => .next (u, t.outputs :: os)
      | .fault f => .fault f
      | .refused r => .refused r
    | .fault f => .fault f
    | .refused r => .refused r

/-- Whether an assembler line assembles and the evaluation it stands for gives the outputs that the line states, where it
states any (`30_encoding.md` R51). -/
def lineHolds (l : AsmLine) (s : State) : Bool :=
  match assemble l with
  | .error _ => false
  | .ok i =>
    match s.respond i.ports with
    | none => false
    | some o => l.expected.all fun e => pairOfBits e.1 == some o.R && e.2 == o.F

end Sys2Proof.Machine
end

