-- ==== Sys2Proof/Safety.lean ====
section
/-! DEFINITION. What a good state and a safe step are, in the terms the claims use. -/

namespace Sys2Proof.Machine

/-- The outputs on the ports are the function of the inputs on the ports (`10_state.md` R15). -/
def Settled (s : State) : Prop := s.outputs = evaluate s.inputs

/-- The states that the hardware can be in: power-up, whatever the host then drives onto the ports, and whatever a step answers. -/
inductive Reachable : State → Prop where
  | reset : Reachable State.reset
  | present (s : State) (p : Inputs) : Reachable s → Reachable (s.present p)
  | step (s t : State) : Reachable s → step s = .next t → Reachable t

/-- The step from `s` answers a next state: it neither faults nor refuses (`60_exceptions.md` R88). -/
def Completes (s : State) : Prop := ∃ t, step s = .next t

end Sys2Proof.Machine
end

