-- ==== Sys2Proof/Certificates/Slice0/Obligations.lean ====
section
/-! DEFINITION. The statements for the provers. `s.respond p` is what the host reads back after it presents `p` and the block
evaluates; `some o` says that the evaluation completes. -/

open Sys2Proof Sys2Proof.Machine

/-! ## Encoding and decoding -/

/-- Words written out from the encodings `000aabb` to `111aabb` of the opcode table decode to the instruction they stand for. That
the seven bits are given as a table word of eight, with bit 7 zero, is the model's choice (log entry 3). -/
def Obligations.WrittenOutWordsDecode : Prop :=
  decodeTableWord 8 0b0001101 = some (.and 0b11#2 0b01#2) ∧
  decodeTableWord 8 0b0011001 = some (.or 0b10#2 0b01#2) ∧
  decodeTableWord 8 0b0100111 = some (.xor 0b01#2 0b11#2) ∧
  decodeTableWord 8 0b0111001 = some (.not 0b10#2 0b01#2) ∧
  decodeTableWord 8 0b1001101 = some (.add 0b11#2 0b01#2) ∧
  decodeTableWord 8 0b1010110 = some (.sub 0b01#2 0b10#2) ∧
  decodeTableWord 8 0b1101111 = some (.unk6 0b11#2 0b11#2) ∧
  decodeTableWord 8 0b1110110 = some (.unk7 0b01#2 0b10#2)

/-- A step runs the instruction on the ports, and a word that the host drives onto the ports is that instruction: nothing is
fetched and nothing is added around `exec`. How a word reaches the ports is the model's choice (log entries 3, 6 and 13). -/
def Obligations.StepRunsTheDecodedInstruction : Prop :=
  (∀ s : State, step s = exec (decode s.inputs) s) ∧
  (∀ (s : State) (nbits w : Nat) (i : Instr), decodeTableWord nbits w = some i →
    s.withFetchWord nbits w = s.present i.ports ∧ decode (s.withFetchWord nbits w).inputs = i ∧
    step (s.withFetchWord nbits w) = exec i (s.withFetchWord nbits w)) ∧
  (∀ (s : State) (nbits w : Nat), decodeTableWord nbits w = none → s.withFetchWord nbits w = s)

/-- Every instruction, with every operand value, is given back by decoding its word, its byte with whatever bytes follow, and
its table word. The byte is the model's choice (log entry 3). -/
def Obligations.DecodeInvertsEncode : Prop :=
  ∀ i : Instr, decode i.ports = i ∧ decodeStimulus (encode i) = i ∧
    (∀ rest, decodeBytes (encodeBytes i ++ rest) = .ok (i, rest)) ∧
    decodeTableWord 8 (encode i).toNat = some i

/-- R48: no encoding is illegal and none traps. Each of the 128 stimulus words is the word of exactly one instruction, the block
answers it from every state, and opcodes 6 and 7 have the defined fallback output. -/
def Obligations.NoEncodingIsIllegal : Prop :=
  ∀ (w : Stimulus) (s : State),
    encode (decodeStimulus w) = w ∧ (∀ i, encode i = w → i = decodeStimulus w) ∧
    ∃ o, s.evaluation (Inputs.ofStimulus w) = .next ⟨s.arch, Inputs.ofStimulus w, o⟩ ∧
      (6 ≤ (w.extractLsb' 4 3).toNat → o = ⟨0b00#2, false, .UNKNOWN⟩)

/-- The stimulus word is `{OP, A, B}`, of value `16*val(OP) + 4*val(A) + val(B)`, 0 to 127, and its fields are the ports. The
order of the groups is the spec's own decision D5. -/
def Obligations.StimulusWordLayout : Prop :=
  ∀ p : Inputs, p.stimulus.toNat = 16 * p.OP.toNat + 4 * p.A.toNat + p.B.toNat ∧ p.stimulus.toNat ≤ 127 ∧
    p.stimulus.extractLsb' 4 3 = p.OP ∧ p.stimulus.extractLsb' 2 2 = p.A ∧ p.stimulus.extractLsb' 0 2 = p.B ∧
    Inputs.ofStimulus p.stimulus = p

/-- R40, R41: the opcode is `s2*4 + s1*2 + s0`, 0 to 7, and an operand is `2*bit1 + bit0`, 0 to 3; the model's field accessors
and `val` read exactly these bits. -/
def Obligations.PortVectorsAreUnsigned : Prop :=
  (∀ op : Opcode, op.toNat = (s2 op).toNat * 4 + (s1 op).toNat * 2 + (s0 op).toNat ∧ op.toNat ≤ 7) ∧
  (∀ x : Operand, x.toNat = 2 * (bit1 x).toNat + (bit0 x).toNat ∧ val x = x.toNat ∧ x.toNat ≤ 3)

/-- R54: which operation is performed is decided by the integer value of the opcode and by nothing else. -/
def Obligations.DispatchIsByTheOpcodeValue : Prop :=
  ∀ p : Inputs,
    (p.OP.toNat = 0 → decode p = .and p.A p.B) ∧ (p.OP.toNat = 1 → decode p = .or p.A p.B) ∧
    (p.OP.toNat = 2 → decode p = .xor p.A p.B) ∧ (p.OP.toNat = 3 → decode p = .not p.A p.B) ∧
    (p.OP.toNat = 4 → decode p = .add p.A p.B) ∧ (p.OP.toNat = 5 → decode p = .sub p.A p.B) ∧
    (p.OP.toNat = 6 → decode p = .unk6 p.A p.B) ∧ (p.OP.toNat = 7 → decode p = .unk7 p.A p.B)

/-- A caller's bit lists reach the ports exactly when each has its port's length, and then bit for bit, most significant first;
otherwise the boundary rejects them. The names of the rejections are the model's choice (log entry 10). -/
def Obligations.MalformedInputIsRejectedAtTheBoundary : Prop :=
  ∀ r : RawInputs,
    (r.wf = true → ∃ p, accept r = .ok p ∧ r.a = [p.A.getLsbD 1, p.A.getLsbD 0] ∧ r.b = [p.B.getLsbD 1, p.B.getLsbD 0] ∧
      r.op = [p.OP.getLsbD 2, p.OP.getLsbD 1, p.OP.getLsbD 0]) ∧
    (r.wf = false → ∃ e, accept r = .error e)

/-- An assembler line with literals of the right width is one evaluation, of its operands as written and of the opcode of its
mnemonic, and the line holds exactly when the outputs are the ones it states. The line is the spec's own (decision D6). -/
def Obligations.AssemblerLineIsOneEvaluation : Prop :=
  ∀ (l : AsmLine) (s : State),
    (l.wf = true → ∃ i o, assemble l = .ok i ∧ s.respond i.ports = some o ∧
      l.a = [i.ports.A.getLsbD 1, i.ports.A.getLsbD 0] ∧ l.b = [i.ports.B.getLsbD 1, i.ports.B.getLsbD 0] ∧
      i.ports.OP.toNat = (match l.mnemonic with
        | .AND => 0 | .OR => 1 | .XOR => 2 | .NOT => 3 | .ADD => 4 | .SUB => 5 | .UNK6 => 6 | .UNK7 => 7) ∧
      (lineHolds l s = true ↔ ∀ e, l.expected = some e → e = ([o.R.getLsbD 1, o.R.getLsbD 0], o.F))) ∧
    (l.wf = false → (∃ e, assemble l = .error e) ∧ lineHolds l s = false)

/-! ## What each instruction does: the whole next state, from every state -/

/-- R60: AND drives the bitwise AND, flag 0 and its label, and changes no input port; its word, corner cases and example. -/
def Obligations.AndDrivesTheBitwiseAnd : Prop :=
  (∀ (a b : Operand) (s : State), ∃ r : Result, exec (.and a b) s = .next ⟨s.arch, s.inputs, ⟨r, false, .AND⟩⟩ ∧
    r.getLsbD 1 = (a.getLsbD 1 && b.getLsbD 1) ∧ r.getLsbD 0 = (a.getLsbD 0 && b.getLsbD 0)) ∧
  (∀ a b : Operand, (encode (.and a b)).toNat = 0x00 + 4 * a.toNat + b.toNat) ∧
  (∀ (a : Operand) (s : State), s.respond ⟨a, 0b00#2, 0b000#3⟩ = some ⟨0b00#2, false, .AND⟩ ∧
    s.respond ⟨a, 0b11#2, 0b000#3⟩ = some ⟨a, false, .AND⟩ ∧ s.respond ⟨a, a, 0b000#3⟩ = some ⟨a, false, .AND⟩) ∧
  (∀ s : State, s.respond ⟨0b11#2, 0b01#2, 0b000#3⟩ = some ⟨0b01#2, false, .AND⟩)

/-- R61: OR drives the bitwise OR, flag 0 and its label, and changes no input port; its word, corner cases and example. -/
def Obligations.OrDrivesTheBitwiseOr : Prop :=
  (∀ (a b : Operand) (s : State), ∃ r : Result, exec (.or a b) s = .next ⟨s.arch, s.inputs, ⟨r, false, .OR⟩⟩ ∧
    r.getLsbD 1 = (a.getLsbD 1 || b.getLsbD 1) ∧ r.getLsbD 0 = (a.getLsbD 0 || b.getLsbD 0)) ∧
  (∀ a b : Operand, (encode (.or a b)).toNat = 0x10 + 4 * a.toNat + b.toNat) ∧
  (∀ (a : Operand) (s : State), s.respond ⟨a, 0b00#2, 0b001#3⟩ = some ⟨a, false, .OR⟩ ∧
    s.respond ⟨a, 0b11#2, 0b001#3⟩ = some ⟨0b11#2, false, .OR⟩ ∧ s.respond ⟨a, a, 0b001#3⟩ = some ⟨a, false, .OR⟩) ∧
  (∀ s : State, s.respond ⟨0b10#2, 0b01#2, 0b001#3⟩ = some ⟨0b11#2, false, .OR⟩)

/-- R62: XOR drives the bitwise exclusive OR, flag 0 and its label, and changes no input port; its word, corner cases (with 11
it gives the result bits of NOT) and example. -/
def Obligations.XorDrivesTheBitwiseXor : Prop :=
  (∀ (a b : Operand) (s : State), ∃ r : Result, exec (.xor a b) s = .next ⟨s.arch, s.inputs, ⟨r, false, .XOR⟩⟩ ∧
    r.getLsbD 1 = (a.getLsbD 1 ^^ b.getLsbD 1) ∧ r.getLsbD 0 = (a.getLsbD 0 ^^ b.getLsbD 0)) ∧
  (∀ a b : Operand, (encode (.xor a b)).toNat = 0x20 + 4 * a.toNat + b.toNat) ∧
  (∀ (a b : Operand) (s : State), s.respond ⟨a, 0b00#2, 0b010#3⟩ = some ⟨a, false, .XOR⟩ ∧
    s.respond ⟨a, 0b11#2, 0b010#3⟩ = some ⟨~~~a, false, .XOR⟩ ∧
    s.resultOf 0b010#3 a 0b11#2 = s.resultOf 0b011#3 a b ∧
    s.respond ⟨a, a, 0b010#3⟩ = some ⟨0b00#2, false, .XOR⟩) ∧
  (∀ s : State, s.respond ⟨0b11#2, 0b01#2, 0b010#3⟩ = some ⟨0b10#2, false, .XOR⟩)

/-- R63: NOT drives the complement of A, never of B, flag 0 and its label, and changes no input port, whatever B is; its word,
corner cases (a second NOT of its own result gives A back) and examples. -/
def Obligations.NotDrivesTheComplementOfA : Prop :=
  (∀ (a b : Operand) (s : State), ∃ r : Result, exec (.not a b) s = .next ⟨s.arch, s.inputs, ⟨r, false, .NOT⟩⟩ ∧
    r.getLsbD 1 = (!a.getLsbD 1) ∧ r.getLsbD 0 = (!a.getLsbD 0)) ∧
  (∀ a b : Operand, (encode (.not a b)).toNat = 0x30 + 4 * a.toNat + b.toNat) ∧
  (∀ (b : Operand) (s : State), s.respond ⟨0b00#2, b, 0b011#3⟩ = some ⟨0b11#2, false, .NOT⟩ ∧
    s.respond ⟨0b11#2, b, 0b011#3⟩ = some ⟨0b00#2, false, .NOT⟩) ∧
  (∀ (a b b' : Operand) (s : State), ((s.resultOf 0b011#3 a b).bind fun r => s.resultOf 0b011#3 r b') = some a) ∧
  (∀ s : State, s.respond ⟨0b01#2, 0b11#2, 0b011#3⟩ = some ⟨0b10#2, false, .NOT⟩ ∧
    s.respond ⟨0b01#2, 0b00#2, 0b011#3⟩ = some ⟨0b10#2, false, .NOT⟩)

/-- R66: ADD drives `s1`, `s0` and `cf` of the four equations, its label, and changes no input port; its word and corner
cases. -/
def Obligations.AddDrivesTheRippleCarrySum : Prop :=
  (∀ (a b : Operand) (s : State), ∃ (r : Result) (c0 : Bit),
    exec (.add a b) s = .next ⟨s.arch, s.inputs,
      ⟨r, (a.getLsbD 0 && b.getLsbD 0) || ((a.getLsbD 0 || b.getLsbD 0) && c0), .ADD⟩⟩ ∧
    c0 = (a.getLsbD 0 && b.getLsbD 0) ∧
    r.getLsbD 1 = ((a.getLsbD 1 ^^ b.getLsbD 1) ^^ c0) ∧ r.getLsbD 0 = (a.getLsbD 0 ^^ b.getLsbD 0)) ∧
  (∀ a b : Operand, (encode (.add a b)).toNat = 0x40 + 4 * a.toNat + b.toNat) ∧
  (∀ (x : Operand) (s : State), s.respond ⟨x, 0b00#2, 0b100#3⟩ = some ⟨x, false, .ADD⟩ ∧
    s.respond ⟨0b00#2, x, 0b100#3⟩ = some ⟨x, false, .ADD⟩ ∧
    s.respond ⟨x, x, 0b100#3⟩ = some ⟨vec (x.getLsbD 0) false, x.getLsbD 0, .ADD⟩) ∧
  (∀ s : State, s.respond ⟨0b11#2, 0b11#2, 0b100#3⟩ = some ⟨0b10#2, true, .ADD⟩ ∧
    s.respond ⟨0b11#2, 0b01#2, 0b100#3⟩ = some ⟨0b00#2, true, .ADD⟩ ∧
    s.respond ⟨0b10#2, 0b10#2, 0b100#3⟩ = some ⟨0b00#2, false, .ADD⟩ ∧
    s.respond ⟨0b01#2, 0b01#2, 0b100#3⟩ = some ⟨0b10#2, true, .ADD⟩)

/-- R72: SUB drives `d_first`, `d_second` and `bf` of its equations, the carry running from bit 1 to bit 0, its label, and
changes no input port; its word and corner cases. -/
def Obligations.SubDrivesTheComplementSum : Prop :=
  (∀ (a b : Operand) (s : State), ∃ (r : Result) (nb1 nb0 c_first c_out : Bit),
    exec (.sub a b) s = .next ⟨s.arch, s.inputs, ⟨r, !c_out, .SUB⟩⟩ ∧
    nb1 = (!b.getLsbD 1) ∧ nb0 = (!b.getLsbD 0) ∧
    c_first = ((a.getLsbD 1 && nb1) || ((a.getLsbD 1 || nb1) && true)) ∧
    c_out = ((a.getLsbD 0 && nb0) || ((a.getLsbD 0 || nb0) && c_first)) ∧
    r.getLsbD 1 = ((a.getLsbD 1 ^^ nb1) ^^ true) ∧ r.getLsbD 0 = ((a.getLsbD 0 ^^ nb0) ^^ c_first)) ∧
  (∀ a b : Operand, (encode (.sub a b)).toNat = 0x50 + 4 * a.toNat + b.toNat) ∧
  (∀ (x : Operand) (s : State), s.respond ⟨x, x, 0b101#3⟩ = some ⟨0b00#2, false, .SUB⟩ ∧
    s.respond ⟨x, 0b00#2, 0b101#3⟩ = some ⟨x, false, .SUB⟩ ∧
    s.respond ⟨0b11#2, x, 0b101#3⟩ = some ⟨~~~x, false, .SUB⟩) ∧
  (∀ s : State, s.respond ⟨0b00#2, 0b01#2, 0b101#3⟩ = some ⟨0b01#2, true, .SUB⟩ ∧
    s.respond ⟨0b00#2, 0b10#2, 0b101#3⟩ = some ⟨0b11#2, true, .SUB⟩ ∧
    s.respond ⟨0b00#2, 0b11#2, 0b101#3⟩ = some ⟨0b10#2, true, .SUB⟩ ∧
    s.respond ⟨0b10#2, 0b01#2, 0b101#3⟩ = some ⟨0b11#2, true, .SUB⟩ ∧
    s.respond ⟨0b01#2, 0b10#2, 0b101#3⟩ = some ⟨0b10#2, false, .SUB⟩)

/-- R80: UNK6 and UNK7 drive the constant outputs whatever the operands, change no input port, and cannot be told apart from the
outputs; their words and examples. -/
def Obligations.UnknownDrivesTheConstant : Prop :=
  (∀ (a b : Operand) (s : State), exec (.unk6 a b) s = .next ⟨s.arch, s.inputs, ⟨0b00#2, false, .UNKNOWN⟩⟩ ∧
    exec (.unk7 a b) s = .next ⟨s.arch, s.inputs, ⟨0b00#2, false, .UNKNOWN⟩⟩) ∧
  (∀ a b : Operand, (encode (.unk6 a b)).toNat = 0x60 + 4 * a.toNat + b.toNat ∧
    (encode (.unk7 a b)).toNat = 0x70 + 4 * a.toNat + b.toNat) ∧
  (∀ (a b a' b' : Operand) (s : State), s.respond ⟨a, b, 0b110#3⟩ = s.respond ⟨a', b', 0b111#3⟩) ∧
  (∀ s : State, s.respond ⟨0b11#2, 0b11#2, 0b110#3⟩ = some ⟨0b00#2, false, .UNKNOWN⟩ ∧
    s.respond ⟨0b01#2, 0b10#2, 0b111#3⟩ = some ⟨0b00#2, false, .UNKNOWN⟩)

/-- R81: opcodes 6 and 7 complete like any other evaluation, `UNKNOWN` is the label of exactly these two opcodes, with the zero
result and flag, and the zero result and flag with another label are ordinary. -/
def Obligations.FallbackIsAnOrdinaryEvaluation : Prop :=
  (∀ (s : State) (p : Inputs), ∃ o, s.evaluation p = .next ⟨s.arch, p, o⟩ ∧ (o.LABEL = .UNKNOWN ↔ p.OP.toNat = 6 ∨ p.OP.toNat = 7) ∧
    (o.LABEL = .UNKNOWN → o.R = 0b00#2 ∧ o.F = false)) ∧
  (∀ s : State, s.respond ⟨0b00#2, 0b00#2, 0b000#3⟩ = some ⟨0b00#2, false, .AND⟩)

/-! ## The evaluator and its structure -/

/-- R53: the whole behaviour is the one function `evaluate`: from every state one step answers, it is the function of the present
inputs, and nothing else changes. The function is the listing of `40_dispatch.md` section 5, which goes through neither the
decoder nor the units. -/
def Obligations.StepComputesEvaluate : Prop :=
  ∀ s : State, step s = .next ⟨s.arch, s.inputs, evaluate s.inputs⟩ ∧ s.respond s.inputs = some (evaluate s.inputs)

/-- The structural reading (one-hot decoder, all units, AND-OR selection) drives exactly what the step drives. The structure is
the spec's own decision D4 (log entry 9). -/
def Obligations.CircuitDrivesTheStep : Prop :=
  ∀ s : State, step s = .next ⟨s.arch, s.inputs, circuit s.inputs⟩

/-- Of the eight select lines exactly one is 1, namely line `val(OP)`. The decoder is the spec's own decision D4 (log entry 9). -/
def Obligations.ExactlyOneSelectLine : Prop :=
  ∀ (op : Opcode) (k : Nat), k < 8 → ((SEL op).getLsbD k = true ↔ op.toNat = k)

/-- R56: the label is derived solely from the opcode's integer value, whatever the operands. -/
def Obligations.LabelIsDerivedFromTheOpcodeAlone : Prop :=
  ∀ (s s' : State) (p p' : Inputs), p.OP = p'.OP → ∃ o o', s.respond p = some o ∧ s'.respond p' = some o' ∧
    o.LABEL = o'.LABEL ∧
    (p.OP.toNat = 0 → o.LABEL = .AND) ∧ (p.OP.toNat = 1 → o.LABEL = .OR) ∧ (p.OP.toNat = 2 → o.LABEL = .XOR) ∧
    (p.OP.toNat = 3 → o.LABEL = .NOT) ∧ (p.OP.toNat = 4 → o.LABEL = .ADD) ∧ (p.OP.toNat = 5 → o.LABEL = .SUB) ∧
    (p.OP.toNat = 6 ∨ p.OP.toNat = 7 → o.LABEL = .UNKNOWN)

/-- R18: every evaluation drives the flag, as the table says: `A[0] and B[0]`, the net `cf`, for ADD; 1 exactly when
`val(rev(A)) < val(rev(B))`, the net `bf`, for SUB; 0 for the six others. -/
def Obligations.FlagOfEveryOperation : Prop :=
  ∀ (s : State) (p : Inputs), ∃ o, s.respond p = some o ∧
    (p.OP.toNat = 4 → o.F = (adder p.A p.B).cf ∧ o.F = (p.A.getLsbD 0 && p.B.getLsbD 0)) ∧
    (p.OP.toNat = 5 → o.F = (subtractor p.A p.B).bf ∧ (o.F = true ↔ val (rev p.A) < val (rev p.B))) ∧
    (p.OP.toNat ≠ 4 → p.OP.toNat ≠ 5 → o.F = false)

/-- R19: no operation reads the flag, and the flag of one evaluation cannot influence a later one: what a host reads from a second
evaluation is the same whatever the first one was and whatever flag stood on the port. There is no carry-in and no borrow-in: the
adder's low position has no incoming carry, and the subtractor's first position adds the constant 1. -/
def Obligations.FlagIsNeverRead : Prop :=
  (∀ (i : Instr) (s : State) (f : Bit), exec i ⟨s.arch, s.inputs, ⟨s.outputs.R, f, s.outputs.LABEL⟩⟩ = exec i s) ∧
  (∀ (s t : State) (p q : Inputs), s.evaluation p = .next t → t.respond q = s.respond q) ∧
  (∀ a b : Operand, (adder a b).s0 = (a.getLsbD 0 ^^ b.getLsbD 0) ∧ (adder a b).c0 = (a.getLsbD 0 && b.getLsbD 0) ∧
    (subtractor a b).d_first = ((a.getLsbD 1 ^^ !b.getLsbD 1) ^^ true) ∧
    (subtractor a b).c_first = ((a.getLsbD 1 && !b.getLsbD 1) || ((a.getLsbD 1 || !b.getLsbD 1) && true)))

/-- R13: the input ports are the host's: it drives all seven bits, and no instruction and no step alters one. -/
def Obligations.BlockNeverDrivesItsInputs : Prop :=
  (∀ (i : Instr) (s t : State), exec i s = .next t → t.inputs = s.inputs) ∧
  (∀ s t : State, step s = .next t → t.inputs = s.inputs) ∧
  (∀ (s : State) (p : Inputs), (s.present p).inputs = p)

/-- Nothing is retained: with the same inputs on the ports, an instruction and a step give the same whole next state, whatever the
earlier outputs were. -/
def Obligations.NothingIsRetained : Prop :=
  ∀ s s' : State, s.inputs = s'.inputs → (∀ i : Instr, exec i s = exec i s') ∧ step s = step s' ∧
    ∀ p : Inputs, s.evaluation p = s'.evaluation p

/-- R30: one evaluation reads all seven input bits as one sample with no side effect on them, and evaluating again changes
nothing. -/
def Obligations.EvaluationIsIdempotent : Prop :=
  ∀ (s t : State) (p : Inputs), s.evaluation p = .next t →
    t = ⟨s.arch, p, evaluate p⟩ ∧ step t = .next t ∧ t.evaluation p = .next t

/-! ## The logic unit -/

/-- NOT gives the same outputs for all four values of B, and UNK6 and UNK7 for all sixteen operand pairs: an inference that the
spec marks as its own (`30_encoding.md` section 5). -/
def Obligations.IgnoredOperandBits : Prop :=
  ∀ (s : State) (a a' b b' : Operand), s.respond ⟨a, b, 0b011#3⟩ = s.respond ⟨a, b', 0b011#3⟩ ∧
    s.respond ⟨a, b, 0b110#3⟩ = s.respond ⟨a', b', 0b110#3⟩ ∧ s.respond ⟨a, b, 0b111#3⟩ = s.respond ⟨a', b', 0b111#3⟩

/-- R64: for opcodes 0 to 3 the flag is 0, and the two result bits come from two identical one-bit lanes with no connection: a
lane's bit is fixed by the operand bits of its own index, by the same function in both lanes. -/
def Obligations.LogicUnitIsTwoIdenticalLanes : Prop :=
  ∀ (s s' : State) (p p' : Inputs) (k j : Nat), p.OP = p'.OP → p.OP.toNat ≤ 3 → k < 2 → j < 2 →
    p.A.getLsbD k = p'.A.getLsbD j → p.B.getLsbD k = p'.B.getLsbD j →
    ∃ o o', s.respond p = some o ∧ s'.respond p' = some o' ∧ o.F = false ∧ o'.F = false ∧
      o.R.getLsbD k = o'.R.getLsbD j

/-- The Boolean laws of the logic unit, over evaluations that the host chains, and `val(R) = 3 - val(A)` of NOT: inferences that the
spec marks as its own (`41_logic.md`, Properties of the logic unit, and the corner cases of NOT). -/
def Obligations.LogicUnitLaws : Prop :=
  ∀ (s : State) (a b x x' : Operand),
    (s.resultOf 0 a b = s.resultOf 0 b a ∧ s.resultOf 1 a b = s.resultOf 1 b a ∧ s.resultOf 2 a b = s.resultOf 2 b a) ∧
    (s.resultOf 0 a a = some a ∧ s.resultOf 1 a a = some a ∧ s.resultOf 2 a a = some 0) ∧
    (s.resultOf 0 a 3 = some a ∧ s.resultOf 1 a 0 = some a ∧ s.resultOf 2 a 0 = some a) ∧
    (s.resultOf 0 a 0 = some 0 ∧ s.resultOf 1 a 3 = some 3) ∧
    ((s.resultOf 3 a x).map (·.toNat) = some (3 - a.toNat)) ∧
    (s.resultOf 2 a 3 = s.resultOf 3 a b ∧ ((s.resultOf 3 a x).bind fun r => s.resultOf 3 r x') = some a) ∧
    (((s.resultOf 0 a b).bind fun r => s.resultOf 3 r x) =
      (s.resultOf 3 a x).bind fun na => (s.resultOf 3 b x).bind fun nb => s.resultOf 1 na nb) ∧
    (((s.resultOf 1 a b).bind fun r => s.resultOf 3 r x) =
      (s.resultOf 3 a x).bind fun na => (s.resultOf 3 b x).bind fun nb => s.resultOf 0 na nb) ∧
    (s.resultOf 2 a b = (s.resultOf 1 a b).bind fun o => (s.resultOf 0 a b).bind fun n =>
      (s.resultOf 3 n x).bind fun m => s.resultOf 0 o m)

/-! ## The adder -/

/-- The result of ADD is the unsigned sum modulo 4: an inference that the spec marks as its own (`42_add.md`, What the equations
compute). -/
def Obligations.AddIsTheSumModuloFour : Prop :=
  ∀ (s : State) (a b : Operand), ∃ (r : Result) (f : Bit), s.respond ⟨a, b, 0b100#3⟩ = some ⟨r, f, .ADD⟩ ∧
    r.toNat = (a.toNat + b.toNat) % 4 ∧ f = (a.getLsbD 0 && b.getLsbD 0)

/-- The ADD flag is 1 exactly when both operands are odd; it equals the net `c0`, it differs from the true carry for exactly four
pairs, and `{F, R}` reads as the sum only for the other twelve: an inference that the spec marks as its own (`42_add.md`, What the
equations compute; `90_conflicts.md` C4). -/
def Obligations.AddFlagIsNotTheCarryOfTheSum : Prop :=
  ∀ (s : State) (a b : Operand), ∃ (r : Result) (f : Bit), s.respond ⟨a, b, 0b100#3⟩ = some ⟨r, f, .ADD⟩ ∧
    (f = true ↔ a.toNat % 2 = 1 ∧ b.toNat % 2 = 1) ∧ f = (adder a b).c0 ∧
    ((f = true ↔ 4 ≤ a.toNat + b.toNat) ↔
      (a.toNat, b.toNat) ∉ [(1, 1), (2, 2), (2, 3), (3, 2)]) ∧
    (4 * f.toNat + r.toNat = a.toNat + b.toNat ↔ (f = true ↔ 4 ≤ a.toNat + b.toNat))

/-- The laws of ADD: commutative in both outputs, zero, doubling, increment, complement pair, and associativity of the result bits
across evaluations: an inference that the spec marks as its own (`42_add.md`, What the equations compute). -/
def Obligations.AddLaws : Prop :=
  ∀ (s : State) (a b c x : Operand),
    s.respond ⟨a, b, 0b100#3⟩ = s.respond ⟨b, a, 0b100#3⟩ ∧
    s.respond ⟨a, 0b00#2, 0b100#3⟩ = some ⟨a, false, .ADD⟩ ∧
    s.respond ⟨a, a, 0b100#3⟩ = some ⟨vec (a.getLsbD 0) false, a.getLsbD 0, .ADD⟩ ∧
    s.respond ⟨a, 0b01#2, 0b100#3⟩ = some ⟨vec2 ((val a + 1 : Int) % 4), a.getLsbD 0, .ADD⟩ ∧
    ((s.resultOf 0b011#3 a x).bind fun n => s.respond ⟨a, n, 0b100#3⟩) = some ⟨0b11#2, false, .ADD⟩ ∧
    ((s.resultOf 0b100#3 a b).bind fun r => s.resultOf 0b100#3 r c) =
      ((s.resultOf 0b100#3 b c).bind fun r => s.resultOf 0b100#3 a r)

/-! ## The subtractor -/

/-- The subtractor's nets equal the spec's simplified forms, those of a ripple-borrow subtractor whose low position is bit 1: an
inference that the spec marks as its own (`43_sub.md`, What the equations compute). -/
def Obligations.SubtractorSimplifiedForms : Prop :=
  ∀ a b : Operand, (subtractor a b).d_first = (a.getLsbD 1 ^^ b.getLsbD 1) ∧
    (subtractor a b).c_first = (a.getLsbD 1 || !b.getLsbD 1) ∧
    ∃ b_first : Bit, b_first = (!(subtractor a b).c_first) ∧ b_first = (!a.getLsbD 1 && b.getLsbD 1) ∧
      (subtractor a b).d_second = ((a.getLsbD 0 ^^ b.getLsbD 0) ^^ b_first) ∧
      (subtractor a b).bf = ((!a.getLsbD 0 && b.getLsbD 0) || ((!a.getLsbD 0 || b.getLsbD 0) && b_first))

/-- The result of SUB is the bit-reversal of the difference of the bit-reversed operands, as vectors and written out with weights:
an inference that the spec marks as its own (`43_sub.md`, What the equations compute). -/
def Obligations.SubIsTheReversedDifference : Prop :=
  ∀ (s : State) (a b : Operand), ∃ (r : Result) (f : Bit), s.respond ⟨a, b, 0b101#3⟩ = some ⟨r, f, .SUB⟩ ∧
    rev r = vec2 (((val (rev a) : Int) - val (rev b)) % 4) ∧
    (2 * (r.getLsbD 0).toNat + (r.getLsbD 1).toNat : Int) =
      ((2 * (a.getLsbD 0).toNat + (a.getLsbD 1).toNat : Int) - (2 * (b.getLsbD 0).toNat + (b.getLsbD 1).toNat)) % 4

/-- The SUB flag is the borrow of the reversed subtraction, and differs from the conventional borrow for exactly two pairs: an
inference that the spec marks as its own (`43_sub.md`, What the equations compute; `90_conflicts.md` C5). -/
def Obligations.SubFlagIsTheReversedBorrow : Prop :=
  ∀ (s : State) (a b : Operand), ∃ (r : Result) (f : Bit), s.respond ⟨a, b, 0b101#3⟩ = some ⟨r, f, .SUB⟩ ∧
    (f = true ↔ 2 * (a.getLsbD 0).toNat + (a.getLsbD 1).toNat < 2 * (b.getLsbD 0).toNat + (b.getLsbD 1).toNat) ∧
    ((f = true ↔ a.toNat < b.toNat) ↔ (a.toNat, b.toNat) ∉ [(1, 2), (2, 1)])

/-- SUB agrees with conventional subtraction exactly where every 1 of B is a 1 of A, and then no position borrows; for the other
seven pairs the result differs, also from what NOT, ADD and ADD of the host give: an inference that the spec marks as its own
(`43_sub.md`, What the equations compute). -/
def Obligations.SubAgainstConventionalSubtraction : Prop :=
  ∀ (s : State) (a b x : Operand), ∃ (r : Result) (f : Bit), s.respond ⟨a, b, 0b101#3⟩ = some ⟨r, f, .SUB⟩ ∧
    ((r = vec2 (((val a : Int) - val b) % 4) ∧ (f = true ↔ a.toNat < b.toNat)) ↔ b &&& ~~~a = 0) ∧
    (b &&& ~~~a = 0 → r = a ^^^ b ∧ f = false) ∧
    (b &&& ~~~a ≠ 0 ↔ (a.toNat, b.toNat) ∈ [(0, 1), (0, 2), (0, 3), (1, 2), (1, 3), (2, 1), (2, 3)]) ∧
    ((s.resultOf 0b011#3 b x).bind fun n => (s.resultOf 0b100#3 a n).bind fun u => s.resultOf 0b100#3 u 0b01#2) =
      some (vec2 (((val a : Int) - val b) % 4)) ∧
    (r = vec2 (((val a : Int) - val b) % 4) ↔ b &&& ~~~a = 0)

/-- The laws of SUB: equal operands, zero, all ones, from zero, the high bit, no commutativity, and the conventional subtractor on
reversed operands: an inference that the spec marks as its own (`43_sub.md`, What the equations compute). -/
def Obligations.SubLaws : Prop :=
  ∀ (s : State) (a b : Operand),
    s.respond ⟨a, a, 0b101#3⟩ = some ⟨0b00#2, false, .SUB⟩ ∧
    s.respond ⟨a, 0b00#2, 0b101#3⟩ = some ⟨a, false, .SUB⟩ ∧
    s.respond ⟨0b11#2, b, 0b101#3⟩ = some ⟨~~~b, false, .SUB⟩ ∧
    s.respond ⟨0b00#2, b, 0b101#3⟩ = some ⟨rev (vec2 ((4 - val (rev b) : Int) % 4)), decide (b ≠ 0), .SUB⟩ ∧
    (∃ (r : Result) (f : Bit), s.respond ⟨a, b, 0b101#3⟩ = some ⟨r, f, .SUB⟩ ∧
      r.getLsbD 1 = (a.getLsbD 1 ^^ b.getLsbD 1)) ∧
    s.respond ⟨0b01#2, 0b10#2, 0b101#3⟩ = some ⟨0b10#2, false, .SUB⟩ ∧
    s.respond ⟨0b10#2, 0b01#2, 0b101#3⟩ = some ⟨0b11#2, true, .SUB⟩ ∧
    (∃ (r : Result) (f : Bit), s.respond ⟨rev a, rev b, 0b101#3⟩ = some ⟨r, f, .SUB⟩ ∧
      rev r = vec2 (((val a : Int) - val b) % 4) ∧ (f = true ↔ val a < val b))

/-! ## Totality, power-up, runs -/

/-- No step faults or refuses: every instruction and every step answers a next state, from every state, and no fault exists. The
refusal type's one constructor is the model's (log entry 7), and nothing answers with it. -/
def Obligations.EveryStepCompletes : Prop :=
  (∀ s : State, Completes s) ∧ (∀ (i : Instr) (s : State), ∃ t, exec i s = .next t) ∧ IsEmpty Fault

/-- At power-up, as at any later time, the outputs are `evaluate` of whatever inputs the host drives, with no initial sequence: the
first evaluation behaves like any other. It rests on the spec's own decision D9, and holds of whatever inputs stand at reset
(log entry 2). -/
def Obligations.PowerUpOutputsAreEvaluate : Prop :=
  State.reset.outputs = evaluate State.reset.inputs ∧
  ∀ (s : State) (p : Inputs), State.reset.evaluation p = .next ⟨⟨⟩, p, evaluate p⟩ ∧
    State.reset.evaluation p = s.evaluation p

/-- The state at power-up is settled. -/
def Obligations.ResetIsSettled : Prop := Settled State.reset

/-- Every step leaves the ports settled, from every state, whether settled or not, so that `Settled` is an invariant of every step,
and a settled state stays as it is while the host leaves the inputs alone. -/
def Obligations.EveryStepSettlesThePorts : Prop :=
  (∀ s t : State, step s = .next t → Settled t) ∧ (∀ s : State, Settled s ↔ step s = .next s)

/-- R15: the outputs are a function of the present inputs, they hold as long as the inputs are held, for any number of evaluations,
and they follow the inputs when the host changes them: at once, and as the evaluations after the change give them. -/
def Obligations.OutputsHoldWhileInputsAreHeld : Prop :=
  (∀ (s : State) (p : Inputs), s.present p = ⟨s.arch, p, evaluate p⟩) ∧
  (∀ (s : State) (k : Nat), Sys2Proof.core.run (k + 1) s = .next ⟨s.arch, s.inputs, evaluate s.inputs⟩) ∧
  (∀ (s t : State) (k : Nat) (p : Inputs), Sys2Proof.core.run k s = .next t →
    Sys2Proof.core.run (k + 1) (t.present p) = .next ⟨t.arch, p, evaluate p⟩)

/-- A run maps `evaluate` over the host's list, from every state, and ends with the last inputs and their outputs on the ports; so
the record is the same from any two states. What a run is rests on the spec's own decision D10 (log entry 12). -/
def Obligations.HostRunMapsEvaluate : Prop :=
  ∀ (ps : List Inputs) (s : State), ∃ t, hostRun ps s = .next (t, ps.map evaluate) ∧
    t = (match ps.getLast? with | none => s | some p => ⟨s.arch, p, evaluate p⟩)

/-- R33: an evaluation's outputs do not depend on any earlier or concurrent one. When any number of callers share the block, in
any interleaving, each records exactly what it would record if its own evaluations ran alone, from any state; and two evaluations
with the same inputs give the same outputs, whatever happened between them. -/
def Obligations.InterleavedCallersAreIndependent : Prop :=
  ∀ (calls : List (Nat × Inputs)) (s s' : State), ∃ t os, hostRun (calls.map Prod.snd) s = .next (t, os) ∧
    (∀ caller : Nat, ∃ u, hostRun ((calls.filter fun c => c.1 == caller).map Prod.snd) s' =
      .next (u, (((calls.map Prod.fst).zip os).filter fun c => c.1 == caller).map Prod.snd)) ∧
    (∀ (m n : Nat) (c d : Nat × Inputs), calls[m]? = some c → calls[n]? = some d → c.2 = d.2 → os[m]? = os[n]?)

/-- R59: evaluating twice with identical inputs yields identical outputs, whatever the state and whatever evaluations stand
between the two. -/
def Obligations.RepeatedEvaluationGivesTheSameOutputs : Prop :=
  ∀ (s : State) (p : Inputs) (between : List Inputs), ∃ (t : State) (o : Outputs) (os : List Outputs),
    hostRun (p :: (between ++ [p])) s = .next (t, o :: (os ++ [o])) ∧ os.length = between.length ∧
      s.respond p = some o ∧ t.outputs = o

/-! ## The block and its state -/

/-- The block holds no state. Its state type is the record with no fields, of which there is one; its whole behaviour is `evaluate`;
and the step is the block's evaluation of the inputs on the ports, so that nothing else passes from one to the next. That the model's
State holds the port values beside that record is the model's choice (log entry 1). -/
def Obligations.BlockHoldsNoState : Prop :=
  (∀ m n : Arch, m = n) ∧ (∀ (m : Arch) (p : Inputs), block m p = .next (m, evaluate p)) ∧
  (∀ s : State, ∃ m o, block s.arch s.inputs = .next (m, o) ∧ step s = .next ⟨m, s.inputs, o⟩) ∧
  (∀ (m : Arch) (p q : Inputs) (n : Arch) (o : Outputs), block m q = .next (n, o) → block n p = block m p)

/-- The block's evaluation step has one outcome, the output triple, since its fault and its refusal type have no values: for an
undefined opcode the fallback, for an ADD or SUB beyond two bits the wrapped result. The wrapped values are inferences that the spec
marks as its own (`60_exceptions.md` section 2). -/
def Obligations.BlockHasOneOutcome : Prop :=
  IsEmpty Fault ∧ IsEmpty BlockRefusal ∧ ∀ (m : Arch) (p : Inputs), ∃ o, block m p = .next (m, o) ∧
    (p.OP.toNat = 6 ∨ p.OP.toNat = 7 → o = ⟨0b00#2, false, .UNKNOWN⟩) ∧
    (p.OP.toNat = 4 → o.R.toNat = (p.A.toNat + p.B.toNat) % 4 ∧ o.F = (p.A.getLsbD 0 && p.B.getLsbD 0)) ∧
    (p.OP.toNat = 5 → (val (rev o.R) : Int) = ((val (rev p.A) : Int) - val (rev p.B)) % 4 ∧
      (o.F = true ↔ val (rev p.A) < val (rev p.B)))

/-- In every state that power-up, the host and the step can give, in any order, the outputs are `evaluate` of the inputs; so two such
states with the same inputs are the same state, and the outputs that the model's State writes down store nothing (log entry 1). -/
def Obligations.ReachableStatesStoreNothing : Prop :=
  (∀ s : State, Reachable s → Settled s) ∧
  (∀ s t : State, Reachable s → Reachable t → s.inputs = t.inputs → s = t)

/-- The interface's `exec`, `step` and `core` are the model's `blockExec`, `blockStep` and `blockCore`, whose fault and refusal types
are empty: from every state each pair answers the same next state, over any number of steps, and so does every evaluation of inputs
that the host presents. The interface's own refusal type (log entry 7) is never used. -/
def Obligations.InterfaceStepIsTheBlockStep : Prop :=
  (∀ s : State, ∃ t, blockStep s = .next t ∧ step s = .next t) ∧
  (∀ (s : State) (p : Inputs), ∃ t, s.evaluation p = .next t ∧ step (s.present p) = .next t) ∧
  (∀ (i : Instr) (s : State), ∃ t, blockExec i s = .next t ∧ exec i s = .next t) ∧
  (∀ (k : Nat) (s : State), ∃ t : State, blockCore.run k s = .next t ∧ Sys2Proof.core.run k s = .next t) ∧
  (∀ (i : Instr) (s : State) (m : String), exec i s ≠ .refused (.notModelled m))
end

