-- ==== Sys2Proof/Laws/Operands.lean ====
section
/-! SUPPORT. The small lemmas of the operand readers and builders: a vector is its bits. -/

namespace Sys2Proof.Machine

@[simp] theorem getElem_vec_one (hi lo : Bit) : (vec hi lo)[1] = hi := by
  cases hi <;> cases lo <;> rfl

@[simp] theorem getElem_vec_zero (hi lo : Bit) : (vec hi lo)[0] = lo := by
  cases hi <;> cases lo <;> rfl

theorem getLsbD_vec_one (hi lo : Bit) : (vec hi lo).getLsbD 1 = hi := by
  cases hi <;> cases lo <;> rfl

theorem getLsbD_vec_zero (hi lo : Bit) : (vec hi lo).getLsbD 0 = lo := by
  cases hi <;> cases lo <;> rfl

@[simp] theorem bit1_vec (hi lo : Bit) : bit1 (vec hi lo) = hi := getLsbD_vec_one hi lo

@[simp] theorem bit0_vec (hi lo : Bit) : bit0 (vec hi lo) = lo := getLsbD_vec_zero hi lo

/-- A pair is the vector of its two bits. -/
@[simp] theorem vec_bits (x : BitVec 2) : vec (bit1 x) (bit0 x) = x := by
  revert x; decide

/-- An opcode is the vector of its three bits. -/
@[simp] theorem vec3_bits (op : Opcode) : vec3 (s2 op) (s1 op) (s0 op) = op := by
  revert op; decide

/-- Every pair is built from two bits: the case split for a statement about all operands. -/
theorem exists_vec (x : BitVec 2) : ∃ hi lo, x = vec hi lo := ⟨bit1 x, bit0 x, (vec_bits x).symm⟩

/-- Every opcode is built from three bits. -/
theorem exists_vec3 (op : Opcode) : ∃ x2 x1 x0, op = vec3 x2 x1 x0 := ⟨s2 op, s1 op, s0 op, (vec3_bits op).symm⟩

@[simp] theorem rev_rev (x : BitVec 2) : rev (rev x) = x := by
  simp [rev]

@[simp] theorem rev_vec (hi lo : Bit) : rev (vec hi lo) = vec lo hi := by
  simp [rev]

/-- The bits of a pair decide it. -/
theorem eq_of_bits (x y : BitVec 2) (h1 : bit1 x = bit1 y) (h0 : bit0 x = bit0 y) : x = y := by
  rw [← vec_bits x, ← vec_bits y, h1, h0]

end Sys2Proof.Machine
end

