-- ==== Sys2Proof/Laws/Decode.lean ====
section
/-! SUPPORT. What the decoder and the encoder do, each said once. -/

namespace Sys2Proof

/-- The instruction on the ports of an instruction is that instruction. -/
@[simp] theorem decode_ports (i : Instr) : decode i.ports = i := by
  cases i <;> simp [decode, Instr.ports, Machine.s2, Machine.s1, Machine.s0]

/-- The ports of the instruction on the ports are those ports: no bit is dropped, an ignored operand's bits included. -/
@[simp] theorem ports_decode (p : Inputs) : (decode p).ports = p := by
  obtain ⟨a, b, op⟩ := p
  obtain ⟨x2, x1, x0, rfl⟩ := Machine.exists_vec3 op
  cases x2 <;> cases x1 <;> cases x0 <;>
    simp [decode, Instr.ports, Machine.vec3, Machine.s2, Machine.s1, Machine.s0]

/-- Unpacking a packed stimulus word gives the ports back. -/
@[simp] theorem ofStimulus_stimulus (p : Inputs) : Inputs.ofStimulus p.stimulus = p := by
  obtain ⟨a, b, op⟩ := p
  simp only [Inputs.ofStimulus, Inputs.stimulus, Inputs.mk.injEq]
  revert a b op; decide

/-- Packing the fields of a stimulus word gives the word back. -/
@[simp] theorem stimulus_ofStimulus (w : Stimulus) : (Inputs.ofStimulus w).stimulus = w := by
  revert w; decide

/-- The one byte of a byte-sized table word. -/
theorem tableBytes_byte (w : Nat) (h : w < 256) : tableBytes 8 w = [BitVec.ofNat 8 w] := by
  simp [tableBytes, littleEndian, Nat.mod_eq_of_lt h]

/-- A byte below 128 decodes to the instruction of its low seven bits, and the bytes after it are left. -/
theorem decodeBytes_cons (x : BitVec 8) (rest : List (BitVec 8)) (h : x.toNat < 128) :
    decodeBytes (x :: rest) = .ok (decodeStimulus (x.setWidth 7), rest) := by
  have h' : x.toNat < 2 ^ Config.stimulusBits := h
  simp only [decodeBytes, h', if_true]

/-- A list of two digits is a pair, and no other list is one. -/
theorem pairOfBits_eq_some (l : List Bit) (x : BitVec 2) :
    pairOfBits l = some x ↔ l = [x.getLsbD 1, x.getLsbD 0] := by
  constructor
  · intro h
    match l, h with
    | [hi, lo], h => cases h; rw [Machine.getLsbD_vec_one, Machine.getLsbD_vec_zero]
  · rintro rfl
    exact congrArg some (Machine.vec_bits x)

/-- A list of three digits is a triple, and no other list is one. -/
theorem tripleOfBits_eq_some (l : List Bit) (x : BitVec 3) :
    tripleOfBits l = some x ↔ l = [x.getLsbD 2, x.getLsbD 1, x.getLsbD 0] := by
  constructor
  · intro h
    match l, h with
    | [x2, x1, x0], h => cases h; cases x2 <;> cases x1 <;> cases x0 <;> rfl
  · rintro rfl
    exact congrArg some (Machine.vec3_bits x)

/-- A list that is no pair does not have two digits. -/
theorem pairOfBits_eq_none (l : List Bit) : pairOfBits l = none ↔ l.length ≠ 2 := by
  match l with
  | [] => simp [pairOfBits]
  | [_] => simp [pairOfBits]
  | [_, _] => simp [pairOfBits]
  | _ :: _ :: _ :: _ => simp [pairOfBits]

/-- A list that is no triple does not have three digits. -/
theorem tripleOfBits_eq_none (l : List Bit) : tripleOfBits l = none ↔ l.length ≠ 3 := by
  match l with
  | [] => simp [tripleOfBits]
  | [_] => simp [tripleOfBits]
  | [_, _] => simp [tripleOfBits]
  | [_, _, _] => simp [tripleOfBits]
  | _ :: _ :: _ :: _ :: _ => simp [tripleOfBits]

end Sys2Proof
end

