-- ==== Sys2Proof/Laws/Exec.lean ====
section
/-! SUPPORT. Each meaning said once: the triple it drives, as bits of the operands. -/

namespace Sys2Proof.Machine

theorem execAnd_eq (a b : Operand) (s : State) :
    exec (.and a b) s = .next (s.drive ⟨vec (bit1 a && bit1 b) (bit0 a && bit0 b), false, .AND⟩) := rfl

theorem execOr_eq (a b : Operand) (s : State) :
    exec (.or a b) s = .next (s.drive ⟨vec (bit1 a || bit1 b) (bit0 a || bit0 b), false, .OR⟩) := rfl

theorem execXor_eq (a b : Operand) (s : State) :
    exec (.xor a b) s = .next (s.drive ⟨vec (bit1 a ^^ bit1 b) (bit0 a ^^ bit0 b), false, .XOR⟩) := rfl

theorem execNot_eq (a b : Operand) (s : State) :
    exec (.not a b) s = .next (s.drive ⟨vec (!bit1 a) (!bit0 a), false, .NOT⟩) := rfl

/-- ADD, by the nets of the adder. -/
theorem execAdd_eq (a b : Operand) (s : State) :
    exec (.add a b) s = .next (s.drive ⟨vec (adder a b).s1 (adder a b).s0, (adder a b).cf, .ADD⟩) := rfl

/-- SUB, by the nets of the subtractor. -/
theorem execSub_eq (a b : Operand) (s : State) :
    exec (.sub a b) s =
      .next (s.drive ⟨vec (subtractor a b).d_first (subtractor a b).d_second, (subtractor a b).bf, .SUB⟩) := rfl

theorem execUnk6_eq (a b : Operand) (s : State) :
    exec (.unk6 a b) s = .next (s.drive ⟨vec false false, false, .UNKNOWN⟩) := rfl

theorem execUnk7_eq (a b : Operand) (s : State) :
    exec (.unk7 a b) s = .next (s.drive ⟨vec false false, false, .UNKNOWN⟩) := rfl

/-- The outputs that an instruction drives, a function of the instruction alone (`10_state.md` R15, `40_dispatch.md` R54). -/
def drives : Instr → Outputs
  | .and a b => andOutputs a b
  | .or a b => orOutputs a b
  | .xor a b => xorOutputs a b
  | .not a b => notOutputs a b
  | .add a b => addOutputs a b
  | .sub a b => subOutputs a b
  | .unk6 _ _ => fallback
  | .unk7 _ _ => fallback

/-- All that an instruction can do: it drives its output triple, the same from every state. -/
theorem exec_drives (i : Instr) (s : State) : exec i s = .next (s.drive (drives i)) := by
  cases i <;> rfl

/-- A completed outcome is the same in the spec's types. -/
theorem unrefused_of_next {x : Host.Outcome State Fault Refusal} {t : State} (hx : x = .next t) (h : ∀ r, x ≠ .refused r) :
    unrefused x h = .next t := by
  subst hx; rfl

/-- All that an instruction can do, in the spec's types: the same. -/
theorem blockExec_drives (i : Instr) (s : State) : blockExec i s = .next (s.drive (drives i)) :=
  unrefused_of_next (exec_drives i s) _

/-- All that the block can do: it drives the outputs of the instruction that its inputs are. -/
theorem block_drives (m : Arch) (p : Inputs) : block m p = .next (m, drives (decode p)) := by
  rw [block, blockExec_drives]; rfl

end Sys2Proof.Machine
end

