-- ==== Sys2Proof/Laws/PerInstr.lean ====
section
/-! SUPPORT. Statements for all instructions, one lemma per constructor (LAWS.json). -/

namespace Sys2Proof.Laws.EncodingFields

/-- The fields of an instruction's word are its opcode and operands, and bit 7 of its byte is zero (log entry 3). -/
def Statement (i : Instr) : Prop :=
  Inputs.ofStimulus (encode i) = i.ports ∧ ∀ x ∈ encodeBytes i, x.toNat < 128

/-- The whole family at once, since the fields of a word do not depend on the constructor. -/
theorem of_ports (i : Instr) : Statement i := by
  refine ⟨ofStimulus_stimulus i.ports, ?_⟩
  have h := (encode i).isLt
  simp only [encodeBytes, List.mem_singleton, forall_eq, BitVec.toNat_setWidth]
  omega

theorem and (a b : Operand) : Statement (.and a b) := of_ports _

theorem or (a b : Operand) : Statement (.or a b) := of_ports _

theorem xor (a b : Operand) : Statement (.xor a b) := of_ports _

theorem not (a b : Operand) : Statement (.not a b) := of_ports _

theorem add (a b : Operand) : Statement (.add a b) := of_ports _

theorem sub (a b : Operand) : Statement (.sub a b) := of_ports _

theorem unk6 (a b : Operand) : Statement (.unk6 a b) := of_ports _

theorem unk7 (a b : Operand) : Statement (.unk7 a b) := of_ports _

end Sys2Proof.Laws.EncodingFields
end

