-- ==== Sys2Proof/Laws/State.lean ====
section
/-! SUPPORT. One lemma per field and per update of the state, so that no proof unfolds a record update. -/

namespace Sys2Proof.Machine

/-- The block holds nothing that could differ (`10_state.md` R12). -/
theorem arch_eq (m n : Arch) : m = n := rfl

@[simp] theorem drive_arch (s : State) (o : Outputs) : (s.drive o).arch = s.arch := rfl

@[simp] theorem drive_inputs (s : State) (o : Outputs) : (s.drive o).inputs = s.inputs := rfl

@[simp] theorem drive_outputs (s : State) (o : Outputs) : (s.drive o).outputs = o := rfl

/-- Presented inputs and the outputs that follow them: nothing of the state before is left over but the empty record. -/
theorem present_eq (s : State) (p : Inputs) : s.present p = ⟨s.arch, p, drives (decode p)⟩ := by
  rw [State.present, block_drives]

@[simp] theorem present_arch (s : State) (p : Inputs) : (s.present p).arch = s.arch := rfl

@[simp] theorem present_inputs (s : State) (p : Inputs) : (s.present p).inputs = p := by
  rw [present_eq]

/-- The outputs follow the inputs presented, whatever stood on the ports. -/
@[simp] theorem present_outputs (s : State) (p : Inputs) : (s.present p).outputs = drives (decode p) := by
  rw [present_eq]

@[simp] theorem drive_drive (s : State) (o o' : Outputs) : (s.drive o).drive o' = s.drive o' := rfl

@[simp] theorem present_present (s : State) (p p' : Inputs) : (s.present p).present p' = s.present p' := by
  simp [present_eq]

/-- Presented and driven, a state is exactly those two triples: nothing of it is left over. -/
@[simp] theorem drive_present (s : State) (p : Inputs) (o : Outputs) : (s.present p).drive o = ⟨s.arch, p, o⟩ := by
  rw [present_eq]; rfl

/-- A driven state is its inputs and the outputs driven. -/
theorem drive_eq (s : State) (o : Outputs) : s.drive o = ⟨s.arch, s.inputs, o⟩ := rfl

end Sys2Proof.Machine
end

