-- ==== Sys2Proof/Laws/Step.lean ====
section
/-! SUPPORT. What a step, an evaluation and a run can do, for proofs that do not unfold them. -/

namespace Sys2Proof.Machine

/-- All that the block's step can do: it drives the outputs of the instruction on the ports. -/
theorem blockStep_drives (s : State) : blockStep s = .next (s.drive (drives (decode s.inputs))) := by
  rw [blockStep, block_drives]; rfl

/-- All that the interface's step can do: the same. -/
theorem step_drives (s : State) : step s = .next (s.drive (drives (decode s.inputs))) := by
  rw [step, blockStep_drives]

/-- All that an evaluation can do: it answers the inputs presented with the outputs of the instruction they are, from every
state. -/
theorem evaluation_drives (s : State) (p : Inputs) : s.evaluation p = .next ⟨s.arch, p, drives (decode p)⟩ := by
  simp [State.evaluation, blockStep_drives]

/-- What the host reads back from an evaluation that completes. -/
theorem respond_of_evaluation {s t : State} {p : Inputs} (h : s.evaluation p = .next t) :
    s.respond p = some t.outputs := by
  simp [State.respond, h]

/-- The run of an empty list leaves the ports as they are and records nothing. -/
@[simp] theorem hostRun_nil (s : State) : hostRun [] s = .next (s, []) := rfl

/-- A run whose first evaluation and whose rest complete records the first outputs and then the rest's. -/
theorem hostRun_cons {s t u : State} {p : Inputs} {ps : List Inputs} {os : List Outputs}
    (h : s.evaluation p = .next t) (hs : hostRun ps t = .next (u, os)) :
    hostRun (p :: ps) s = .next (u, t.outputs :: os) := by
  simp [hostRun, h, hs]

/-- Running any core one step and then on. -/
theorem run_succ (M : Host.Core) {s t : M.State} (k : Nat) (h : M.step s = .next t) : M.run (k + 1) s = M.run k t := by
  simp only [Host.Core.run, h]

/-- Running the core one step and then on. -/
theorem core_run_succ {s t : State} (k : Nat) (h : step s = .next t) :
    Sys2Proof.core.run (k + 1) s = Sys2Proof.core.run k t := run_succ Sys2Proof.core k h

/-- Running the core in the spec's types one step and then on. -/
theorem blockCore_run_succ {s t : State} (k : Nat) (h : blockStep s = .next t) :
    blockCore.run (k + 1) s = blockCore.run k t := run_succ blockCore k h

end Sys2Proof.Machine
end

