-- ==== Sys2Proof/Tests/Slice0.lean ====
section
/-! SUPPORT. The model's own tests. Words are written out bit by bit from the encodings of the opcode table (`OP`, then `A`, then
`B`, `30_encoding.md` R45), and outputs are copied from `95_test_vectors.md` sections 2 and 3. -/

namespace Sys2Proof.Tests

open Sys2Proof Sys2Proof.Machine

/-! ## Well-formedness: one ill-formed term for each check -/

theorem test_wellFormed_accepts : (RawInputs.mk [true, false] [false, true] [true, false, true]).wf = true := by decide

theorem test_wellFormed_refuses_A : (RawInputs.mk [true] [false, true] [true, false, true]).wfA = false := by decide

theorem test_wellFormed_refuses_B : (RawInputs.mk [true, false] [false, true, true] [true, false, true]).wfB = false := by decide

theorem test_wellFormed_refuses_OP : (RawInputs.mk [true, false] [false, true] [true, false]).wfOP = false := by decide

theorem test_line_wellFormed : (AsmLine.mk .ADD [true, true] [true, true] (some ([true, false], true))).wf = true := by decide

theorem test_line_refuses_a : (AsmLine.mk .ADD [true] [true, true] none).wfA = false := by decide

theorem test_line_refuses_b : (AsmLine.mk .ADD [true, true] [] none).wfB = false := by decide

theorem test_line_refuses_expected : (AsmLine.mk .ADD [true, true] [true, true] (some ([true], true))).wfExpected = false := by
  decide

/-! ## The boundary rejects by name -/

theorem test_accept : accept ⟨[true, false], [false, true], [true, false, true]⟩ = .ok ⟨0b10#2, 0b01#2, 0b101#3⟩ := by decide

theorem test_accept_wrongLengthA : accept ⟨[], [false, true], [true, false, true]⟩ = .error .wrongLengthA := by decide

theorem test_accept_wrongLengthB : accept ⟨[true, false], [true], [true, false, true]⟩ = .error .wrongLengthB := by decide

theorem test_accept_wrongLengthOP :
    accept ⟨[true, false], [false, true], [true, false, true, true]⟩ = .error .wrongLengthOP := by decide

theorem test_assemble : assemble ⟨.UNK6, [true, true], [false, true], none⟩ = .ok (.unk6 0b11#2 0b01#2) := by decide

theorem test_assemble_wrongLengthExpected :
    assemble ⟨.NOT, [true, true], [false, true], some ([], false)⟩ = .error .wrongLengthExpected := by decide

/-- `ADD 11, 11 -> 10 1` (`95_test_vectors.md` 2.2). -/
theorem test_line_holds : lineHolds ⟨.ADD, [true, true], [true, true], some ([true, false], true)⟩ State.reset = true := by decide

/-- The source's `SUB 10, 01 -> 01 0` does not hold (`90_conflicts.md` C2). -/
theorem test_line_of_conflict_C2_fails :
    lineHolds ⟨.SUB, [true, false], [false, true], some ([false, true], false)⟩ State.reset = false := by decide

theorem test_decodeBytes_noWord : decodeBytes [] = .error .noWord := by decide

theorem test_decodeBytes_notAStimulusWord : decodeBytes [0x80#8] = .error .notAStimulusWord := by decide

theorem test_tableWord_above_seven_bits : decodeTableWord 8 0x80 = none := by decide

/-! ## Decoding: a word of every row, written out -/

theorem test_decode_and : decodeTableWord 8 0b0001101 = some (.and 0b11#2 0b01#2) := by decide

theorem test_decode_or : decodeTableWord 8 0b0011001 = some (.or 0b10#2 0b01#2) := by decide

theorem test_decode_xor : decodeTableWord 8 0b0100111 = some (.xor 0b01#2 0b11#2) := by decide

theorem test_decode_not : decodeTableWord 8 0b0111001 = some (.not 0b10#2 0b01#2) := by decide

theorem test_decode_add : decodeTableWord 8 0b1001101 = some (.add 0b11#2 0b01#2) := by decide

theorem test_decode_sub : decodeTableWord 8 0b1010110 = some (.sub 0b01#2 0b10#2) := by decide

theorem test_decode_unk6 : decodeTableWord 8 0b1101111 = some (.unk6 0b11#2 0b11#2) := by decide

theorem test_decode_unk7 : decodeTableWord 8 0b1110110 = some (.unk7 0b01#2 0b10#2) := by decide

/-- The model's choice of log entry 13: zeros above a short word, and bits above `nbits` dropped. -/
theorem test_decode_short_word : decodeTableWord 3 0b101 = some (.and 0b01#2 0b01#2) ∧
    decodeTableWord 3 0b1111101 = some (.and 0b01#2 0b01#2) := by decide

/-- A table word of the row's own seven bits decodes as well. -/
theorem test_decode_seven_bits : decodeTableWord 7 0b1010110 = some (.sub 0b01#2 0b10#2) := by decide

theorem test_encode_sub : encode (.sub 0b01#2 0b10#2) = 0b1010110#7 := by decide

/-! ## One evaluation, from a state whose outputs are stale -/

/-- The output ports hold what no evaluation of the inputs gives: the answer must not read them. -/
def stale : State := ⟨⟨⟩, ⟨0b11#2, 0b11#2, 0b111#3⟩, ⟨0b11#2, true, .SUB⟩⟩

/-- What the host reads after it drives the ports with a word. -/
def after (w : Nat) : Option Outputs := (decodeTableWord 8 w).bind fun i => stale.respond i.ports

theorem test_and_lanes_differ : after 0x0D = some ⟨0b01#2, false, .AND⟩ := by decide

theorem test_and_disjoint : after 0x09 = some ⟨0b00#2, false, .AND⟩ := by decide

theorem test_or_disjoint : after 0x19 = some ⟨0b11#2, false, .OR⟩ := by decide

theorem test_or_same : after 0x15 = some ⟨0b01#2, false, .OR⟩ := by decide

theorem test_xor_lanes_differ : after 0x2D = some ⟨0b10#2, false, .XOR⟩ := by decide

theorem test_xor_same : after 0x2A = some ⟨0b00#2, false, .XOR⟩ := by decide

theorem test_not_ignores_b : after 0x37 = some ⟨0b10#2, false, .NOT⟩ := by decide

/-- It is A, not B, that is complemented. -/
theorem test_not_complements_a : after 0x39 = some ⟨0b01#2, false, .NOT⟩ := by decide

/-- The flag is set although the sum fits (`90_conflicts.md` C1). -/
theorem test_add_flag_without_carry : after 0x45 = some ⟨0b10#2, true, .ADD⟩ := by decide

/-- The flag is clear although the sum, 5, wraps (`90_conflicts.md` C4). -/
theorem test_add_carry_without_flag : after 0x4B = some ⟨0b01#2, false, .ADD⟩ := by decide

/-- `90_conflicts.md` C2. -/
theorem test_sub_conflict_C2 : after 0x59 = some ⟨0b11#2, true, .SUB⟩ := by decide

/-- `90_conflicts.md` C3. -/
theorem test_sub_conflict_C3 : after 0x56 = some ⟨0b10#2, false, .SUB⟩ := by decide

theorem test_unk6_ignores_operands : after 0x6F = some ⟨0b00#2, false, .UNKNOWN⟩ := by decide

theorem test_unk7_ignores_operands : after 0x76 = some ⟨0b00#2, false, .UNKNOWN⟩ := by decide

/-- The outputs follow the inputs that the host presents, before any step (`10_state.md` R15): `SUB 10, 01 -> 11 1`. -/
theorem test_present_drives_the_outputs :
    stale.present ⟨0b10#2, 0b01#2, 0b101#3⟩ = ⟨⟨⟩, ⟨0b10#2, 0b01#2, 0b101#3⟩, ⟨0b11#2, true, .SUB⟩⟩ := by decide

theorem test_step_runs_the_word : step (stale.withFetchWord 8 0x45) = .next ⟨⟨⟩, ⟨0b01#2, 0b01#2, 0b100#3⟩, ⟨0b10#2, true, .ADD⟩⟩ := by
  rfl

/-- `95_test_vectors.md` 2.5: the select lines of opcode 100, bit 7 first. -/
theorem test_select_add : SEL 0b100#3 = 0b00010000#8 := by decide

theorem test_select_or : SEL 0b001#3 = 0b00000010#8 := by decide

/-! ## Witnesses: a state and operands that meet the hypotheses of each statement that has some -/

theorem test_witness_StepRunsTheDecodedInstruction : decodeTableWord 8 0x59 = some (.sub 0b10#2 0b01#2) := by decide

theorem test_witness_StepRunsTheDecodedInstruction_rejected : decodeTableWord 8 0xFF = none := by decide

theorem test_witness_NoEncodingIsIllegal :
    6 ≤ ((0b1100000#7 : Stimulus).extractLsb' 4 3).toNat ∧ encode (.unk6 0b00#2 0b00#2) = 0b1100000#7 := by decide

/-- Each of the eight clauses has its opcode value, the first and the last at the ends of the range. -/
theorem test_witness_DispatchIsByTheOpcodeValue :
    ((List.range 8).map fun n => decode ⟨0b10#2, 0b01#2, BitVec.ofNat 3 n⟩) =
      [.and 2 1, .or 2 1, .xor 2 1, .not 2 1, .add 2 1, .sub 2 1, .unk6 2 1, .unk7 2 1] := by decide

theorem test_witness_MalformedInput_well : (RawInputs.mk [true, true] [false, false] [true, true, true]).wf = true := by decide

theorem test_witness_MalformedInput_ill : (RawInputs.mk [true, true] [false] [true, true, true]).wf = false := by decide

theorem test_witness_AssemblerLine_well :
    (AsmLine.mk .UNK7 [false, true] [true, false] (some ([false, false], false))).wf = true := by decide

theorem test_witness_AssemblerLine_ill : (AsmLine.mk .UNK7 [false, true, true] [true, false] none).wf = false := by decide

/-- Both directions of the label's clause: UNKNOWN at 6 and 7, and another label at 5. -/
theorem test_witness_FallbackIsAnOrdinaryEvaluation :
    stale.respond ⟨0b01#2, 0b10#2, 0b110#3⟩ = some ⟨0b00#2, false, .UNKNOWN⟩ ∧
    stale.respond ⟨0b01#2, 0b10#2, 0b111#3⟩ = some ⟨0b00#2, false, .UNKNOWN⟩ ∧
    stale.respond ⟨0b01#2, 0b10#2, 0b101#3⟩ = some ⟨0b10#2, false, .SUB⟩ := by decide

theorem test_witness_ExactlyOneSelectLine : (7 < 8) ∧ (SEL 0b111#3).getLsbD 7 = true ∧ (0b111#3).toNat = 7 := by decide

/-- Each clause of the label's table, by the opcode values in order. -/
theorem test_witness_LabelIsDerivedFromTheOpcodeAlone :
    ((List.range 8).map fun n => (stale.respond ⟨0b10#2, 0b01#2, BitVec.ofNat 3 n⟩).map (·.LABEL)) =
      [some .AND, some .OR, some .XOR, some .NOT, some .ADD, some .SUB, some .UNKNOWN, some .UNKNOWN] := by decide

/-- A value on each side of the clauses of the flag: opcodes 3, 4, 5 and 6 on `01` and `11`. -/
theorem test_witness_FlagOfEveryOperation :
    ([3, 4, 5, 6].map fun n => (stale.respond ⟨0b01#2, 0b11#2, BitVec.ofNat 3 n⟩).map (·.F)) =
      [some false, some true, some true, some false] := by decide

theorem test_witness_FlagIsNeverRead :
    stale.evaluation ⟨0b01#2, 0b01#2, 0b100#3⟩ = .next ⟨⟨⟩, ⟨0b01#2, 0b01#2, 0b100#3⟩, ⟨0b10#2, true, .ADD⟩⟩ := by rfl

theorem test_witness_BlockNeverDrivesItsInputs :
    exec (.add 0b01#2 0b01#2) stale = .next ⟨⟨⟩, ⟨0b11#2, 0b11#2, 0b111#3⟩, ⟨0b10#2, true, .ADD⟩⟩ ∧
    step stale = .next ⟨⟨⟩, ⟨0b11#2, 0b11#2, 0b111#3⟩, ⟨0b00#2, false, .UNKNOWN⟩⟩ := ⟨rfl, rfl⟩

/-- Two different states with the same inputs on their ports. -/
theorem test_witness_NothingIsRetained :
    stale.inputs = (stale.drive ⟨0b00#2, false, .UNKNOWN⟩).inputs ∧ stale ≠ stale.drive ⟨0b00#2, false, .UNKNOWN⟩ := by decide

theorem test_witness_EvaluationIsIdempotent :
    stale.evaluation ⟨0b10#2, 0b01#2, 0b101#3⟩ = .next ⟨⟨⟩, ⟨0b10#2, 0b01#2, 0b101#3⟩, ⟨0b11#2, true, .SUB⟩⟩ := by rfl

/-- Opcode 3, the largest the statement takes, with lane 1 of one input triple and lane 0 of the other alike. -/
theorem test_witness_LogicUnitIsTwoIdenticalLanes :
    (0b011#3).toNat ≤ 3 ∧ (0b10#2).getLsbD 1 = (0b01#2).getLsbD 0 ∧ (0b00#2).getLsbD 1 = (0b10#2).getLsbD 0 := by decide

/-- The two sides of the subset condition. -/
theorem test_witness_SubAgainstConventionalSubtraction :
    0b01#2 &&& ~~~(0b11#2) = 0 ∧ 0b01#2 &&& ~~~(0b10#2) ≠ 0 := by decide

theorem test_witness_EveryStepSettlesThePorts :
    step stale = .next ⟨⟨⟩, ⟨0b11#2, 0b11#2, 0b111#3⟩, ⟨0b00#2, false, .UNKNOWN⟩⟩ ∧ ¬ stale.outputs = evaluate stale.inputs :=
  ⟨rfl, by decide⟩

theorem test_witness_OutputsHoldWhileInputsAreHeld :
    Sys2Proof.core.run 2 stale = .next ⟨⟨⟩, ⟨0b11#2, 0b11#2, 0b111#3⟩, ⟨0b00#2, false, .UNKNOWN⟩⟩ := by rfl

/-- Two callers, with one evaluation between two on the same inputs, the first of caller 1 and the last of caller 2. -/
def twoCallers : List (Nat × Inputs) :=
  [(1, ⟨0b01#2, 0b01#2, 0b100#3⟩), (2, ⟨0b10#2, 0b01#2, 0b101#3⟩), (2, ⟨0b01#2, 0b01#2, 0b100#3⟩)]

theorem test_witness_InterleavedCallersAreIndependent :
    twoCallers[0]? = some (1, ⟨0b01#2, 0b01#2, 0b100#3⟩) ∧ twoCallers[2]? = some (2, ⟨0b01#2, 0b01#2, 0b100#3⟩) ∧
    hostRun (twoCallers.map Prod.snd) stale = .next (⟨⟨⟩, ⟨0b01#2, 0b01#2, 0b100#3⟩, ⟨0b10#2, true, .ADD⟩⟩,
      [⟨0b10#2, true, .ADD⟩, ⟨0b11#2, true, .SUB⟩, ⟨0b10#2, true, .ADD⟩]) := ⟨rfl, rfl, rfl⟩

theorem test_witness_BlockHoldsNoState :
    block ⟨⟩ ⟨0b01#2, 0b01#2, 0b100#3⟩ = .next (⟨⟩, ⟨0b10#2, true, .ADD⟩) := by rfl

/-- A value under each clause: opcodes 6, 7, 4 and 5, and one under none. -/
theorem test_witness_BlockHasOneOutcome :
    block ⟨⟩ ⟨0b11#2, 0b11#2, 0b110#3⟩ = .next (⟨⟩, ⟨0b00#2, false, .UNKNOWN⟩) ∧
    block ⟨⟩ ⟨0b11#2, 0b11#2, 0b111#3⟩ = .next (⟨⟩, ⟨0b00#2, false, .UNKNOWN⟩) ∧
    block ⟨⟩ ⟨0b11#2, 0b11#2, 0b100#3⟩ = .next (⟨⟩, ⟨0b10#2, true, .ADD⟩) ∧
    block ⟨⟩ ⟨0b00#2, 0b11#2, 0b101#3⟩ = .next (⟨⟩, ⟨0b10#2, true, .SUB⟩) ∧
    block ⟨⟩ ⟨0b00#2, 0b11#2, 0b011#3⟩ = .next (⟨⟩, ⟨0b11#2, false, .NOT⟩) := ⟨rfl, rfl, rfl, rfl, rfl⟩

/-- Two reachable states with the same inputs, the second after a step of the first. -/
theorem test_witness_ReachableStatesStoreNothing :
    Reachable (State.reset.present ⟨0b10#2, 0b01#2, 0b101#3⟩) ∧
    step (State.reset.present ⟨0b10#2, 0b01#2, 0b101#3⟩) = .next ⟨⟨⟩, ⟨0b10#2, 0b01#2, 0b101#3⟩, ⟨0b11#2, true, .SUB⟩⟩ ∧
    Reachable ⟨⟨⟩, ⟨0b10#2, 0b01#2, 0b101#3⟩, ⟨0b11#2, true, .SUB⟩⟩ := by
  have h : Reachable (State.reset.present ⟨0b10#2, 0b01#2, 0b101#3⟩) := .present _ _ .reset
  exact ⟨h, rfl, .step _ _ h rfl⟩

end Sys2Proof.Tests
end

section
/-! PROOFS. The statements about the state and the ports (`10_state.md`): R13, R15, R18 and R19. First what an evaluation answers,
tied to the listing `evaluate`; then the two flag nets; then the four statements. -/

namespace Sys2Proof.Machine

/-! ## What an evaluation answers -/

/-- Every input triple is the ports of an instruction: the case split, by instruction, for a statement about all inputs. -/
theorem exists_ports_eq (p : Inputs) : ∃ i : Instr, p = i.ports := ⟨decode p, (ports_decode p).symm⟩

/-- The instruction on the ports drives the triple of the listing (`40_dispatch.md` R53 and section 5). -/
theorem drives_decode (p : Inputs) : drives (decode p) = evaluate p := by
  obtain ⟨i, rfl⟩ := exists_ports_eq p
  rw [decode_ports]
  cases i <;> rfl

/-- What the host reads back is a function of the inputs it presents, and of no state. -/
theorem respond_drives (s : State) (p : Inputs) : s.respond p = some (drives (decode p)) :=
  respond_of_evaluation (evaluation_drives s p)

/-- A step runs the instruction on the ports. -/
theorem step_eq_exec (s : State) : step s = exec (decode s.inputs) s := by
  rw [step_drives, exec_drives]

/-- A completed instruction has driven its output triple and done nothing else. -/
theorem eq_drive_of_exec_next {i : Instr} {s t : State} (h : exec i s = .next t) : t = s.drive (drives i) := by
  rw [exec_drives] at h
  exact (Host.Outcome.next.inj h).symm

/-- No instruction alters an input port (`10_state.md` R13). -/
theorem inputs_eq_of_exec_next {i : Instr} {s t : State} (h : exec i s = .next t) : t.inputs = s.inputs := by
  rw [eq_drive_of_exec_next h, drive_inputs]

/-- Any positive number of steps leaves the inputs on the ports and beside them their evaluation. -/
theorem core_run_eq_evaluate (s : State) (k : Nat) :
    Sys2Proof.core.run (k + 1) s = .next ⟨s.arch, s.inputs, evaluate s.inputs⟩ := by
  induction k generalizing s with
  | zero => rw [core_run_succ 0 (step_drives s), drives_decode]; rfl
  | succ k ih => exact (core_run_succ (k + 1) (step_drives s)).trans (ih _)

/-! ## The flag nets -/

/-- With `x and y` for its carry-in, a full adder's carry-out is that carry-in. -/
theorem carry_and_self (x y : Bit) : carry x y (x && y) = (x && y) := by
  cases x <;> cases y <;> rfl

/-- The adder's flag net is its bit-0 carry (`10_state.md` R18, `42_add.md` R70). -/
theorem adder_cf (a b : Operand) : (adder a b).cf = (a.getLsbD 0 && b.getLsbD 0) :=
  carry_and_self (bit0 a) (bit0 b)

/-- A full adder fed the complement of `y` borrows exactly when the sum of `x` and its carry-in does not exceed `y`. -/
theorem subFlag_carry_iff (x y c : Bit) : subFlag (carry x (!y) c) = true ↔ x.toNat + c.toNat ≤ y.toNat := by
  cases x <;> cases y <;> cases c <;> decide

/-- Reversed, a pair has its bit 0 in the place of weight 2. -/
theorem val_rev (x : BitVec 2) : val (rev x) = 2 * (bit0 x).toNat + (bit1 x).toNat := by
  simp [val, rev]

/-- The subtractor's flag net compares the reversed operands (`43_sub.md` R77): its carry runs from bit 1 to bit 0, so bit 0 is the
place that decides and bit 1 breaks the tie. -/
theorem subtractor_bf_iff (a b : Operand) : (subtractor a b).bf = true ↔ val (rev a) < val (rev b) := by
  have first : subFlag (subtractor a b).c_first = true ↔ (bit1 a).toNat + 1 ≤ (bit1 b).toNat :=
    subFlag_carry_iff (bit1 a) (bit1 b) true
  have second : (subtractor a b).bf = true ↔ (bit0 a).toNat + (subtractor a b).c_first.toNat ≤ (bit0 b).toNat :=
    subFlag_carry_iff (bit0 a) (bit0 b) (subtractor a b).c_first
  have ha := (bit1 a).toNat_le
  have hb := (bit1 b).toNat_le
  rw [second, val_rev, val_rev]
  cases hc : (subtractor a b).c_first with
  | false =>
    have bit1_borrows := first.mp (by rw [hc]; rfl)
    rw [Bool.toNat_false]; omega
  | true =>
    have no_borrow := mt first.mpr (by rw [hc]; decide)
    rw [Bool.toNat_true]; omega

/-! ## The statements -/

/-- Settles O42: the steps after the first one change nothing, by induction on their number, and presented inputs are inputs held. -/
theorem outputsHoldWhileInputsAreHeld : Obligations.OutputsHoldWhileInputsAreHeld := by
  refine ⟨fun s p => ?_, core_run_eq_evaluate, fun s t k p _ => ?_⟩
  · rw [present_eq, drives_decode]
  · simpa using core_run_eq_evaluate (t.present p) k

/-- Settles O22: by instruction, with the two flag nets for ADD and SUB. -/
theorem flagOfEveryOperation : Obligations.FlagOfEveryOperation := by
  intro s p
  obtain ⟨i, rfl⟩ := exists_ports_eq p
  refine ⟨drives i, by rw [respond_drives, decode_ports], ?_⟩
  cases i with
  | add a b => exact ⟨fun _ => ⟨rfl, adder_cf a b⟩, by simp [Instr.ports], by simp [Instr.ports]⟩
  | sub a b => exact ⟨by simp [Instr.ports], fun _ => ⟨rfl, subtractor_bf_iff a b⟩, by simp [Instr.ports]⟩
  | and | or | xor | not | unk6 | unk7 => exact ⟨by simp [Instr.ports], by simp [Instr.ports], fun _ _ => rfl⟩

/-- Settles O23: an instruction drives over the outputs that stood on the ports, and an evaluation answers its inputs alone; the
nets of the low positions have no incoming bit by definition. -/
theorem flagIsNeverRead : Obligations.FlagIsNeverRead := by
  refine ⟨fun i s f => ?_, fun s t p q _ => ?_, fun a b => ⟨rfl, rfl, rfl, rfl⟩⟩
  · rw [exec_drives, exec_drives, drive_eq, drive_eq]
  · rw [respond_drives, respond_drives]

/-- Settles O24: an instruction drives the outputs only, and a step is an instruction. -/
theorem blockNeverDrivesItsInputs : Obligations.BlockNeverDrivesItsInputs := by
  refine ⟨fun i s t => inputs_eq_of_exec_next, fun s t h => ?_, present_inputs⟩
  rw [step_eq_exec] at h
  exact inputs_eq_of_exec_next h

end Sys2Proof.Machine
end

section
/-! PROOFS. The statements about samples and callers (`20_memory.md`): R30 and R33. An evaluation leaves what presenting its inputs
leaves, so a run records `evaluate` of its inputs in order; the two statements follow. -/

namespace Sys2Proof.Machine

/-! ## What an evaluation and a run leave -/

/-- Presented inputs stand on the ports with their evaluation beside them, as the listing gives it. -/
theorem present_eq_evaluate (s : State) (p : Inputs) : s.present p = ⟨s.arch, p, evaluate p⟩ := by
  rw [present_eq, drives_decode]

/-- An evaluation leaves what presenting its inputs leaves: the outputs follow them already (`20_memory.md` R30). -/
theorem evaluation_eq_present (s : State) (p : Inputs) : s.evaluation p = .next (s.present p) := by
  rw [evaluation_drives, present_eq]

/-- A step changes nothing where inputs were just presented. -/
theorem step_present (s : State) (p : Inputs) : step (s.present p) = .next (s.present p) := by
  rw [step_drives, present_inputs, drive_present, present_eq]

/-- A run records `evaluate` of its inputs, in order and from every state, and leaves the ports as presenting the inputs one after
another leaves them. -/
theorem hostRun_eq_map_evaluate (ps : List Inputs) (s : State) :
    hostRun ps s = .next (ps.foldl State.present s, ps.map evaluate) := by
  induction ps generalizing s with
  | nil => rfl
  | cons p ps ih =>
    have run := hostRun_cons (evaluation_eq_present s p) (ih (s.present p))
    rwa [present_outputs, drives_decode] at run

/-! ## What a caller records -/

/-- The outputs a caller finds in the shared record under its own tag are `evaluate` of its own inputs, in order. -/
theorem callerRecord_eq_map_evaluate (calls : List (Nat × Inputs)) (caller : Nat) :
    (((calls.map Prod.fst).zip ((calls.map Prod.snd).map evaluate)).filter fun c => c.1 == caller).map Prod.snd =
      ((calls.filter fun c => c.1 == caller).map Prod.snd).map evaluate := by
  rw [List.map_map, List.zip_map', List.filter_map, List.map_map, List.map_map]
  rfl

/-! ## The statements -/

/-- Settles O44: the shared run and the caller's own both record `evaluate` of their inputs, whichever state they start from, and
tagging and filtering go past that map. -/
theorem interleavedCallersAreIndependent : Obligations.InterleavedCallersAreIndependent := by
  intro calls s s'
  refine ⟨_, _, hostRun_eq_map_evaluate _ s, fun caller => ?_, fun m n c d hc hd same => ?_⟩
  · rw [callerRecord_eq_map_evaluate]
    exact ⟨_, hostRun_eq_map_evaluate _ s'⟩
  · simp [hc, hd, same]

/-- Settles O26: an evaluation leaves its inputs presented, where a step and the same inputs presented again change nothing. -/
theorem evaluationIsIdempotent : Obligations.EvaluationIsIdempotent := by
  intro s t p h
  rw [evaluation_eq_present] at h
  obtain rfl := Host.Outcome.next.inj h
  refine ⟨present_eq_evaluate s p, step_present s p, ?_⟩
  rw [evaluation_eq_present, present_present]

end Sys2Proof.Machine
end

section
/-! PROOFS. The statements about the encoding (`30_encoding.md`): R40, R41 and R48. A vector's value is read from its bits; a stimulus
word and its instruction determine each other; and the instructions of opcodes 6 and 7 drive the fallback. -/

namespace Sys2Proof.Machine

/-! ## The value of a vector -/

/-- Bit 1 of a pair has weight 2, bit 0 weight 1 (`30_encoding.md` R41). -/
theorem toNat_vec (hi lo : Bit) : (vec hi lo).toNat = 2 * hi.toNat + lo.toNat := by
  cases hi <;> cases lo <;> rfl

/-- The weights of `s2`, `s1` and `s0` are 4, 2 and 1 (`30_encoding.md` R40). -/
theorem toNat_vec3 (x2 x1 x0 : Bit) : (vec3 x2 x1 x0).toNat = x2.toNat * 4 + x1.toNat * 2 + x0.toNat := by
  cases x2 <;> cases x1 <;> cases x0 <;> rfl

/-- `val` is the unsigned value of a pair. -/
theorem val_eq_toNat (x : BitVec 2) : val x = x.toNat := by
  rw [val, ← toNat_vec, vec_bits]

/-- An opcode's value is that of its three bits. -/
theorem toNat_opcode (op : Opcode) : op.toNat = (s2 op).toNat * 4 + (s1 op).toNat * 2 + (s0 op).toNat := by
  rw [← toNat_vec3, vec3_bits]

/-! ## Words and instructions -/

/-- Every stimulus word is the word of the instruction it decodes to. -/
@[simp] theorem encode_decodeStimulus (w : Stimulus) : encode (decodeStimulus w) = w := by
  rw [encode, decodeStimulus, ports_decode, stimulus_ofStimulus]

/-- The word of an instruction decodes to that instruction. -/
@[simp] theorem decodeStimulus_encode (i : Instr) : decodeStimulus (encode i) = i := by
  rw [encode, decodeStimulus, ofStimulus_stimulus, decode_ports]

/-- Opcode values 6 and 7 drive the fallback whatever the operands are (`44_unknown.md` R80). -/
theorem drives_decode_of_six_le (p : Inputs) (h : 6 ≤ p.OP.toNat) : drives (decode p) = fallback := by
  obtain ⟨i, rfl⟩ := exists_ports_eq p
  rw [decode_ports]
  cases i with
  | unk6 | unk7 => rfl
  | and | or | xor | not | add | sub => exact absurd h (by simp [Instr.ports])

/-! ## The statements -/

/-- Settles O6: both kinds of vector are built from their bits, whose weights give the value; the range is the width's. -/
theorem portVectorsAreUnsigned : Obligations.PortVectorsAreUnsigned := by
  refine ⟨fun op => ⟨toNat_opcode op, Nat.le_of_lt_succ op.isLt⟩, fun x => ?_⟩
  exact ⟨(val_eq_toNat x).symm, val_eq_toNat x, Nat.le_of_lt_succ x.isLt⟩

/-- Settles O4: decoding and encoding a word are inverse, every evaluation completes, and opcodes 6 and 7 give the fallback. -/
theorem noEncodingIsIllegal : Obligations.NoEncodingIsIllegal := by
  intro w s
  refine ⟨encode_decodeStimulus w, ?_, _, evaluation_drives s _, drives_decode_of_six_le (Inputs.ofStimulus w)⟩
  rintro i rfl
  exact (decodeStimulus_encode i).symm

end Sys2Proof.Machine
end

section
/-! PROOFS. The statements about the evaluator and its dispatch (`40_dispatch.md`): R53, R54, R56 and R59. A step and a response answer
`evaluate`; the opcode's value fixes the instruction and the label; and a run ends on the outputs of its last inputs. -/

namespace Sys2Proof.Machine

/-! ## The one function -/

/-- A step leaves the inputs on the ports and drives the listing's evaluation of them (`40_dispatch.md` R53). -/
theorem step_eq_evaluate (s : State) : step s = .next ⟨s.arch, s.inputs, evaluate s.inputs⟩ := by
  rw [step_drives, drives_decode, drive_eq]

/-- The host reads back the listing's evaluation of the inputs it presents, whatever the state. -/
theorem respond_eq_evaluate (s : State) (p : Inputs) : s.respond p = some (evaluate p) := by
  rw [respond_drives, drives_decode]

/-! ## The dispatch and the label -/

/-- The instruction that has the operands on the ports and the opcode of value `k` is the one selected at that value. -/
theorem decode_of_toNat_opcode {p : Inputs} {i : Instr} {k : Nat} (value : p.OP.toNat = k)
    (ports : i.ports = ⟨p.A, p.B, BitVec.ofNat 3 k⟩) : decode p = i := by
  have at_p : i.ports = p := by rw [ports, ← value, BitVec.ofNat_toNat, BitVec.setWidth_eq]
  rw [← at_p, decode_ports]

/-- Each arm of the listing drives the opcode's label, so the operands have no part in it (`40_dispatch.md` R56). -/
theorem evaluate_label (p : Inputs) : (evaluate p).LABEL = labelOf p.OP := by
  unfold evaluate
  split <;> rfl

/-! ## The end of a run -/

/-- A run that ends with `p` ends with `p` presented, and records `evaluate p` last. -/
theorem hostRun_concat (ps : List Inputs) (p : Inputs) (s : State) :
    hostRun (ps ++ [p]) s = .next ((ps.foldl State.present s).present p, ps.map evaluate ++ [evaluate p]) := by
  rw [hostRun_eq_map_evaluate, List.foldl_concat, List.map_append, List.map_singleton]

/-! ## The statements -/

/-- Settles O18: the step drives the instruction on the ports, whose triple is the listing's, and the host reads back the same. -/
theorem stepComputesEvaluate : Obligations.StepComputesEvaluate :=
  fun s => ⟨step_eq_evaluate s, respond_eq_evaluate s s.inputs⟩

/-- Settles O21: both evaluations answer the label of the one opcode, which the table gives by its value. -/
theorem labelIsDerivedFromTheOpcodeAlone : Obligations.LabelIsDerivedFromTheOpcodeAlone := by
  intro s s' p p' same
  refine ⟨_, _, respond_eq_evaluate s p, respond_eq_evaluate s' p', ?_⟩
  rw [evaluate_label, evaluate_label, ← same]
  refine ⟨rfl, ?_, ?_, ?_, ?_, ?_, ?_, ?unknown⟩
  case unknown => rintro (value | value) <;> simp [labelOf, value]
  all_goals intro value; simp [labelOf, value]

/-- Settles O45: the run records `evaluate` of its inputs in order, `p` first and last, and ends with `p` presented. -/
theorem repeatedEvaluationGivesTheSameOutputs : Obligations.RepeatedEvaluationGivesTheSameOutputs := by
  intro s p between
  refine ⟨_, evaluate p, between.map evaluate, hostRun_concat (p :: between) p s, List.length_map _,
    respond_eq_evaluate s p, ?_⟩
  rw [present_outputs, drives_decode]

/-- Settles O7: at each value the selected instruction has the operands on the ports and the opcode of that value. -/
theorem dispatchIsByTheOpcodeValue : Obligations.DispatchIsByTheOpcodeValue := by
  intro p
  refine ⟨?_, ?_, ?_, ?_, ?_, ?_, ?_, ?_⟩
  all_goals exact fun value => decode_of_toNat_opcode value rfl

end Sys2Proof.Machine
end

section
/-! PROOFS. The statements about the logic unit (`41_logic.md`): R60 to R64. Each of its four instructions drives a bit vector operation
on its operands, so that the corner cases are laws of that operation and the two lanes are its bits. -/

namespace Sys2Proof.Machine

/-! ## What any instruction does -/

/-- The whole next state of an instruction: nothing but the output triple is new. -/
theorem exec_eq (i : Instr) (s : State) : exec i s = .next ⟨s.arch, s.inputs, drives i⟩ := exec_drives i s

/-- The host that presents an instruction reads back the triple it drives. -/
theorem respond_ports (s : State) (i : Instr) : s.respond i.ports = some (drives i) := by
  rw [respond_drives, decode_ports]

/-- The fields of the stimulus word have the weights 16, 4 and 1 (`30_encoding.md` R45). -/
theorem toNat_stimulus (p : Inputs) : p.stimulus.toNat = 16 * p.OP.toNat + 4 * p.A.toNat + p.B.toNat := by
  rw [Inputs.stimulus, BitVec.toNat_append, BitVec.toNat_append, ← Nat.shiftLeft_add_eq_or_of_lt p.A.isLt,
    ← Nat.shiftLeft_add_eq_or_of_lt p.B.isLt, Nat.shiftLeft_eq, Nat.shiftLeft_eq]
  omega

/-- The word of an instruction, by the fields of its ports. -/
theorem toNat_encode (i : Instr) : (encode i).toNat = 16 * i.ports.OP.toNat + 4 * i.ports.A.toNat + i.ports.B.toNat :=
  toNat_stimulus i.ports

/-! ## The operation of each logic instruction -/

/-- A pair is the vector of the bits it is known to have. -/
theorem vec_eq_of_getLsbD {x : BitVec 2} {hi lo : Bit} (h1 : x.getLsbD 1 = hi) (h0 : x.getLsbD 0 = lo) : vec hi lo = x := by
  rw [← h1, ← h0]; exact vec_bits x

@[simp] theorem drives_and (a b : Operand) : drives (.and a b) = ⟨a &&& b, false, .AND⟩ :=
  congrArg (Outputs.mk · false .AND) (vec_eq_of_getLsbD BitVec.getLsbD_and BitVec.getLsbD_and)

@[simp] theorem drives_or (a b : Operand) : drives (.or a b) = ⟨a ||| b, false, .OR⟩ :=
  congrArg (Outputs.mk · false .OR) (vec_eq_of_getLsbD BitVec.getLsbD_or BitVec.getLsbD_or)

@[simp] theorem drives_xor (a b : Operand) : drives (.xor a b) = ⟨a ^^^ b, false, .XOR⟩ :=
  congrArg (Outputs.mk · false .XOR) (vec_eq_of_getLsbD BitVec.getLsbD_xor BitVec.getLsbD_xor)

@[simp] theorem drives_not (a b : Operand) : drives (.not a b) = ⟨~~~a, false, .NOT⟩ :=
  congrArg (Outputs.mk · false .NOT) (vec_eq_of_getLsbD BitVec.getLsbD_not BitVec.getLsbD_not)

/-! ## What the host reads back from each -/

theorem respond_and (s : State) (a b : Operand) : s.respond ⟨a, b, 0b000#3⟩ = some ⟨a &&& b, false, .AND⟩ :=
  (respond_ports s (.and a b)).trans (congrArg some (drives_and a b))

theorem respond_or (s : State) (a b : Operand) : s.respond ⟨a, b, 0b001#3⟩ = some ⟨a ||| b, false, .OR⟩ :=
  (respond_ports s (.or a b)).trans (congrArg some (drives_or a b))

theorem respond_xor (s : State) (a b : Operand) : s.respond ⟨a, b, 0b010#3⟩ = some ⟨a ^^^ b, false, .XOR⟩ :=
  (respond_ports s (.xor a b)).trans (congrArg some (drives_xor a b))

theorem respond_not (s : State) (a b : Operand) : s.respond ⟨a, b, 0b011#3⟩ = some ⟨~~~a, false, .NOT⟩ :=
  (respond_ports s (.not a b)).trans (congrArg some (drives_not a b))

theorem resultOf_xor (s : State) (a b : Operand) : s.resultOf 0b010#3 a b = some (a ^^^ b) := by
  rw [State.resultOf, respond_xor]; rfl

theorem resultOf_not (s : State) (a b : Operand) : s.resultOf 0b011#3 a b = some (~~~a) := by
  rw [State.resultOf, respond_not]; rfl

/-! ## The lane -/

/-- The one-bit lane of the logic unit, by the opcode's value: the result bit from the two operand bits of its index (`41_logic.md`
R64). The last arm is opcode 3. -/
def logicLane (op : Opcode) (x y : Bit) : Bit :=
  match op.toNat with
  | 0 => x && y
  | 1 => x || y
  | 2 => x ^^ y
  | _ => !x

/-- For opcodes 0 to 3 the flag is 0, and each result bit is the same lane's on the operand bits of its own index. -/
theorem evaluate_of_opcode_le_three (p : Inputs) (h : p.OP.toNat ≤ 3) :
    (evaluate p).F = false ∧
      ∀ k < 2, (evaluate p).R.getLsbD k = logicLane p.OP (p.A.getLsbD k) (p.B.getLsbD k) := by
  obtain ⟨i, rfl⟩ := exists_ports_eq p
  rw [← drives_decode, decode_ports]
  cases i with
  | and a b => rw [drives_and]; exact ⟨rfl, fun _ _ => BitVec.getLsbD_and⟩
  | or a b => rw [drives_or]; exact ⟨rfl, fun _ _ => BitVec.getLsbD_or⟩
  | xor a b => rw [drives_xor]; exact ⟨rfl, fun _ _ => BitVec.getLsbD_xor⟩
  | not a b =>
    rw [drives_not]
    exact ⟨rfl, fun k hk => by simp [hk, logicLane, Instr.ports]⟩
  | add | sub | unk6 | unk7 => exact absurd h (by simp [Instr.ports])

/-! ## The statements -/

/-- Settles O10: the result is `a &&& b`, and the corner cases are its laws. -/
theorem andDrivesTheBitwiseAnd : Obligations.AndDrivesTheBitwiseAnd := by
  refine ⟨fun a b s => ⟨a &&& b, ?_, BitVec.getLsbD_and, BitVec.getLsbD_and⟩, fun a b => toNat_encode (.and a b),
    fun a s => ?_, fun s => respond_and s _ _⟩
  · rw [exec_eq, drives_and]
  · have ones : a &&& 0b11#2 = a := BitVec.and_allOnes
    rw [respond_and, respond_and, respond_and, BitVec.and_zero, BitVec.and_self, ones]
    exact ⟨rfl, rfl, rfl⟩

/-- Settles O11: the result is `a ||| b`, and the corner cases are its laws. -/
theorem orDrivesTheBitwiseOr : Obligations.OrDrivesTheBitwiseOr := by
  refine ⟨fun a b s => ⟨a ||| b, ?_, BitVec.getLsbD_or, BitVec.getLsbD_or⟩, fun a b => toNat_encode (.or a b),
    fun a s => ?_, fun s => respond_or s _ _⟩
  · rw [exec_eq, drives_or]
  · have ones : a ||| 0b11#2 = 0b11#2 := BitVec.or_allOnes
    rw [respond_or, respond_or, respond_or, BitVec.or_zero, BitVec.or_self, ones]
    exact ⟨rfl, rfl, rfl⟩

/-- Settles O12: the result is `a ^^^ b`, and the corner cases are its laws; with 11 it is the complement, which NOT drives too. -/
theorem xorDrivesTheBitwiseXor : Obligations.XorDrivesTheBitwiseXor := by
  refine ⟨fun a b s => ⟨a ^^^ b, ?_, BitVec.getLsbD_xor, BitVec.getLsbD_xor⟩, fun a b => toNat_encode (.xor a b),
    fun a b s => ?_, fun s => respond_xor s _ _⟩
  · rw [exec_eq, drives_xor]
  · have ones : a ^^^ 0b11#2 = ~~~a := BitVec.xor_allOnes
    rw [respond_xor, respond_xor, respond_xor, resultOf_xor, resultOf_not, BitVec.xor_zero, BitVec.xor_self, ones]
    exact ⟨rfl, rfl, rfl, rfl⟩

/-- Settles O13: the result is `~~~a` whatever `b` is, and complementing twice gives `a` back. -/
theorem notDrivesTheComplementOfA : Obligations.NotDrivesTheComplementOfA := by
  refine ⟨fun a b s => ⟨~~~a, ?_, ?_, ?_⟩, fun a b => toNat_encode (.not a b),
    fun b s => ⟨respond_not s _ b, respond_not s _ b⟩, fun a b b' s => ?_, fun s => ⟨respond_not s _ _, respond_not s _ _⟩⟩
  · rw [exec_eq, drives_not]
  · exact BitVec.getLsbD_not
  · exact BitVec.getLsbD_not
  · rw [resultOf_not, Option.bind_some, resultOf_not, BitVec.not_not]

/-- Settles O28: both result bits are the one lane's, and the lane is given the same opcode and the same operand bits. -/
theorem logicUnitIsTwoIdenticalLanes : Obligations.LogicUnitIsTwoIdenticalLanes := by
  intro s s' p p' k j sameOP logic hk hj sameA sameB
  obtain ⟨flag, lane⟩ := evaluate_of_opcode_le_three p logic
  obtain ⟨flag', lane'⟩ := evaluate_of_opcode_le_three p' (sameOP ▸ logic)
  refine ⟨_, _, respond_eq_evaluate s p, respond_eq_evaluate s' p', flag, flag', ?_⟩
  rw [lane k hk, lane' j hj, sameOP, sameA, sameB]

end Sys2Proof.Machine
end

section
/-! PROOFS. The statement about the adder (`42_add.md`): R66. The nets that ripple the carry from bit 0 to bit 1 are the bits of the
bit vector sum, so that the corner cases are laws of addition; the flag net is the bit-0 carry (`adder_cf`). -/

namespace Sys2Proof.Machine

/-! ## The sum nets -/

/-- The carry that enters bit 1 of a sum is the adder's `c0`: bit 0 has no carry-in. -/
theorem carry_one_eq_adder_c0 (a b : Operand) : BitVec.carry 1 a b false = (adder a b).c0 := by
  rw [BitVec.carry_succ, BitVec.carry_zero, Bool.atLeastTwo_false_right]; rfl

/-- The adder's sum nets are the bits of `a + b`. -/
theorem vec_adder (a b : Operand) : vec (adder a b).s1 (adder a b).s0 = a + b := by
  refine vec_eq_of_getLsbD ?_ ?_
  · rw [BitVec.getLsbD_add Nat.one_lt_two, carry_one_eq_adder_c0, ← Bool.xor_assoc]; rfl
  · rw [BitVec.getLsbD_add Nat.two_pos, BitVec.carry_zero, Bool.xor_false]; rfl

/-- A doubled pair has its bit 0 in the place of weight 2. -/
theorem add_self_eq_vec (x : Operand) : x + x = vec (x.getLsbD 0) false := by
  rw [← vec_adder]
  simp [adder, xor3, bit0]

/-! ## What ADD drives, and what the host reads back from it -/

@[simp] theorem drives_add (a b : Operand) : drives (.add a b) = ⟨a + b, a.getLsbD 0 && b.getLsbD 0, .ADD⟩ :=
  congrArg₂ (Outputs.mk · · .ADD) (vec_adder a b) (adder_cf a b)

theorem respond_add (s : State) (a b : Operand) :
    s.respond ⟨a, b, 0b100#3⟩ = some ⟨a + b, a.getLsbD 0 && b.getLsbD 0, .ADD⟩ :=
  (respond_ports s (.add a b)).trans (congrArg some (drives_add a b))

/-! ## The statement -/

/-- Settles O14: the four equations are the adder's nets as they stand, and the corner cases are laws of `a + b`. -/
theorem addDrivesTheRippleCarrySum : Obligations.AddDrivesTheRippleCarrySum := by
  refine ⟨fun a b s => ⟨_, (adder a b).c0, execAdd_eq a b s, rfl, getLsbD_vec_one _ _, getLsbD_vec_zero _ _⟩,
    fun a b => toNat_encode (.add a b), fun x s => ⟨?_, ?_, ?_⟩,
    fun s => ⟨respond_add s _ _, respond_add s _ _, respond_add s _ _, respond_add s _ _⟩⟩
  · rw [respond_add, BitVec.add_zero, BitVec.getLsbD_zero, Bool.and_false]
  · rw [respond_add, BitVec.zero_add, BitVec.getLsbD_zero, Bool.false_and]
  · rw [respond_add, add_self_eq_vec, Bool.and_self]

end Sys2Proof.Machine
end

section
/-! PROOFS. The statement about the subtractor (`43_sub.md`): R72. Its carry runs from bit 1 to bit 0, so its nets are the reversed bits
of the bit vector difference of the reversed operands (R76), and the corner cases are laws of subtraction; the flag net is the borrow
of that difference (`subtractor_bf_iff`, R77). -/

namespace Sys2Proof.Machine

/-! ## The difference nets -/

/-- A full adder's carry-out is the majority of its three inputs. -/
theorem carry_eq_atLeastTwo (x y c : Bit) : carry x y c = Bool.atLeastTwo x y c := by
  cases x <;> cases y <;> cases c <;> rfl

/-- Reversed, a pair has its bit 1 in the place of bit 0. -/
theorem getLsbD_rev_zero (x : BitVec 2) : (rev x).getLsbD 0 = bit1 x := getLsbD_vec_zero _ _

/-- Reversed, a pair has its bit 0 in the place of bit 1. -/
theorem getLsbD_rev_one (x : BitVec 2) : (rev x).getLsbD 1 = bit0 x := getLsbD_vec_one _ _

/-- The complement of a pair, by its bits. -/
theorem not_eq_vec (x : BitVec 2) : ~~~x = vec (!bit1 x) (!bit0 x) :=
  (vec_eq_of_getLsbD BitVec.getLsbD_not BitVec.getLsbD_not).symm

/-- The complement of a reversed pair, by the bits of the pair: the subtractor's nets `nb0` and `nb1`, in this order. -/
theorem not_rev (x : BitVec 2) : ~~~rev x = vec (!bit0 x) (!bit1 x) := by
  rw [not_eq_vec, rev, bit1_vec, bit0_vec]

/-- A difference, bit by bit: the complement of the subtrahend is added with a carry of 1 into bit 0. -/
theorem getLsbD_sub_eq_add_not {x y : BitVec 2} {i : Nat} (hi : i < 2) :
    (x - y).getLsbD i = (x.getLsbD i ^^ ((~~~y).getLsbD i ^^ BitVec.carry i x (~~~y) true)) := by
  rw [BitVec.sub_eq_add_neg, BitVec.neg_eq_not_add, ← BitVec.add_assoc]
  exact BitVec.getLsbD_add_add_bool hi x (~~~y) true

/-- The carry that enters bit 1 of the reversed difference is the subtractor's `c_first`. -/
theorem carry_one_eq_subtractor_c_first (a b : Operand) :
    BitVec.carry 1 (rev a) (~~~rev b) true = (subtractor a b).c_first := by
  rw [BitVec.carry_succ, BitVec.carry_zero, ← carry_eq_atLeastTwo, not_rev, getLsbD_rev_zero, getLsbD_vec_zero]; rfl

/-- The subtractor's difference nets are the reversed bits of the reversed operands' difference (`43_sub.md` R76). -/
theorem vec_subtractor (a b : Operand) :
    vec (subtractor a b).d_first (subtractor a b).d_second = rev (rev a - rev b) := by
  refine vec_eq_of_getLsbD ?_ ?_
  · rw [rev, getLsbD_vec_one, bit0, getLsbD_sub_eq_add_not Nat.two_pos, BitVec.carry_zero, not_rev, getLsbD_rev_zero,
      getLsbD_vec_zero, ← Bool.xor_assoc]; rfl
  · rw [rev, getLsbD_vec_zero, bit1, getLsbD_sub_eq_add_not Nat.one_lt_two, carry_one_eq_subtractor_c_first, not_rev,
      getLsbD_rev_one, getLsbD_vec_one, ← Bool.xor_assoc]; rfl

/-- The subtractor's flag net is the borrow of the reversed operands' difference (`43_sub.md` R77). -/
theorem subtractor_bf (a b : Operand) : (subtractor a b).bf = (rev a).ult (rev b) := by
  rw [Bool.eq_iff_iff, subtractor_bf_iff, val_eq_toNat, val_eq_toNat, BitVec.ult_iff_toNat_lt]

/-! ## What SUB drives, and what the host reads back from it -/

@[simp] theorem drives_sub (a b : Operand) : drives (.sub a b) = ⟨rev (rev a - rev b), (rev a).ult (rev b), .SUB⟩ :=
  congrArg₂ (Outputs.mk · · .SUB) (vec_subtractor a b) (subtractor_bf a b)

theorem respond_sub (s : State) (a b : Operand) :
    s.respond ⟨a, b, 0b101#3⟩ = some ⟨rev (rev a - rev b), (rev a).ult (rev b), .SUB⟩ :=
  (respond_ports s (.sub a b)).trans (congrArg some (drives_sub a b))

/-! ## The statement -/

/-- Settles O15: the equations are the subtractor's nets as they stand, and the corner cases are laws of the reversed operands'
difference: equal operands leave zero, a subtrahend of 00 leaves the minuend, and a minuend of 11 leaves the complement. -/
theorem subDrivesTheComplementSum : Obligations.SubDrivesTheComplementSum := by
  refine ⟨fun a b s => ⟨_, _, _, (subtractor a b).c_first, (subtractor a b).c_out, execSub_eq a b s, rfl, rfl, rfl, rfl,
      getLsbD_vec_one _ _, getLsbD_vec_zero _ _⟩,
    fun a b => toNat_encode (.sub a b), fun x s => ⟨?_, ?_, ?_⟩,
    fun s => ⟨respond_sub s _ _, respond_sub s _ _, respond_sub s _ _, respond_sub s _ _, respond_sub s _ _⟩⟩
  · have no_borrow : (rev x).ult (rev x) = false := decide_eq_false (Nat.lt_irrefl _)
    rw [respond_sub, BitVec.sub_self, no_borrow]; rfl
  · have no_borrow : (rev x).ult 0#2 = false := decide_eq_false (Nat.not_lt_zero _)
    have reversed : rev 0b00#2 = 0#2 := rfl
    rw [respond_sub, reversed, BitVec.sub_zero, rev_rev, no_borrow]
  · have no_borrow : (BitVec.allOnes 2).ult (rev x) = false :=
      decide_eq_false (Nat.not_lt_of_le (Nat.le_of_lt_succ (rev x).isLt))
    have reversed : rev 0b11#2 = BitVec.allOnes 2 := rfl
    rw [respond_sub, reversed, BitVec.allOnes_sub_eq_not, no_borrow, not_rev, rev_vec, ← not_eq_vec]

end Sys2Proof.Machine
end

section
/-! PROOFS. The statements about the fallback (`44_unknown.md`): R80 and R81. Both of its instructions drive the one triple `fallback`,
and the label of that triple belongs to their two opcode values alone. -/

namespace Sys2Proof.Machine

/-! ## What UNK6 and UNK7 drive, and what the host reads back from them -/

/-- The triple of the fallback (`44_unknown.md` R80). -/
theorem fallback_eq : fallback = ⟨0b00#2, false, .UNKNOWN⟩ := rfl

@[simp] theorem drives_unk6 (a b : Operand) : drives (.unk6 a b) = ⟨0b00#2, false, .UNKNOWN⟩ := fallback_eq

@[simp] theorem drives_unk7 (a b : Operand) : drives (.unk7 a b) = ⟨0b00#2, false, .UNKNOWN⟩ := fallback_eq

theorem respond_unk6 (s : State) (a b : Operand) : s.respond ⟨a, b, 0b110#3⟩ = some ⟨0b00#2, false, .UNKNOWN⟩ :=
  (respond_ports s (.unk6 a b)).trans (congrArg some (drives_unk6 a b))

theorem respond_unk7 (s : State) (a b : Operand) : s.respond ⟨a, b, 0b111#3⟩ = some ⟨0b00#2, false, .UNKNOWN⟩ :=
  (respond_ports s (.unk7 a b)).trans (congrArg some (drives_unk7 a b))

/-! ## The label -/

/-- `UNKNOWN` is the label of UNK6 and UNK7, the instructions of opcode values 6 and 7, and of no other (`44_unknown.md` R81). -/
theorem label_drives_eq_unknown_iff (i : Instr) :
    (drives i).LABEL = .UNKNOWN ↔ i.ports.OP.toNat = 6 ∨ i.ports.OP.toNat = 7 := by
  cases i with
  | unk6 => exact iff_of_true rfl (.inl rfl)
  | unk7 => exact iff_of_true rfl (.inr rfl)
  | and | or | xor | not | add | sub => simp [Instr.ports]

/-! ## The statements -/

/-- Settles O17: an evaluation drives the label of the instruction presented, `UNKNOWN` at opcodes 6 and 7 alone, where it drives the
fallback. -/
theorem fallbackIsAnOrdinaryEvaluation : Obligations.FallbackIsAnOrdinaryEvaluation := by
  refine ⟨fun s p => ⟨_, evaluation_drives s p, ?_⟩, fun s => respond_and s _ _⟩
  have label := label_drives_eq_unknown_iff (decode p)
  rw [ports_decode] at label
  refine ⟨label, fun unknown => ?_⟩
  have value : 6 ≤ p.OP.toNat := by have := label.mp unknown; omega
  rw [drives_decode_of_six_le p value, fallback_eq]
  exact ⟨rfl, rfl⟩

/-- Settles O16: both instructions drive the one constant triple, from every state and whatever their operands are. -/
theorem unknownDrivesTheConstant : Obligations.UnknownDrivesTheConstant := by
  refine ⟨fun a b s => ⟨?_, ?_⟩, fun a b => ⟨toNat_encode (.unk6 a b), toNat_encode (.unk7 a b)⟩,
    fun a b a' b' s => ?_, fun s => ⟨respond_unk6 s _ _, respond_unk7 s _ _⟩⟩
  · rw [exec_eq, drives_unk6]
  · rw [exec_eq, drives_unk7]
  · rw [respond_unk6, respond_unk7]

end Sys2Proof.Machine
end

section
/-! PROOFS. The statements about the states that the hardware can be in and about the types of the block (`10_state.md`,
`60_exceptions.md`, `70_reset_and_hazards.md`): R12, R15, R88, R101 to R104. Presenting inputs and stepping both settle the ports,
so a reachable state is its inputs; a run ends with its last inputs presented. -/

namespace Sys2Proof.Machine

/-! ## Settled states -/

/-- Inputs and their evaluation, as presenting and stepping leave them, are settled. -/
theorem settled_mk_evaluate (m : Arch) (p : Inputs) : Settled ⟨m, p, evaluate p⟩ := rfl

theorem settled_present (s : State) (p : Inputs) : Settled (s.present p) := by
  rw [present_eq_evaluate]; exact settled_mk_evaluate s.arch p

/-- A step settles the ports, whatever stood on them. -/
theorem settled_of_step_next {s t : State} (h : step s = .next t) : Settled t := by
  rw [step_eq_evaluate] at h
  obtain rfl := Host.Outcome.next.inj h
  exact settled_mk_evaluate s.arch s.inputs

/-- A settled state is fixed by its inputs: the block holds nothing, and the outputs follow. -/
theorem eq_of_settled {s t : State} (hs : Settled s) (ht : Settled t) (same : s.inputs = t.inputs) : s = t := by
  obtain ⟨m, p, o⟩ := s
  obtain ⟨n, q, o'⟩ := t
  obtain rfl : p = q := same
  obtain rfl : o = evaluate p := hs
  obtain rfl : o' = evaluate p := ht
  rw [arch_eq m n]

/-- A settled state is one that a step leaves as it is. -/
theorem settled_iff_step_eq_self (s : State) : Settled s ↔ step s = .next s := by
  refine ⟨fun settled => ?_, settled_of_step_next⟩
  rw [step_eq_evaluate]
  exact congrArg Host.Outcome.next (eq_of_settled (settled_mk_evaluate s.arch s.inputs) settled rfl)

/-! ## The block and its cores -/

/-- No fault can be raised: the type has no value (`60_exceptions.md` R88). -/
theorem isEmpty_fault : IsEmpty Fault := ⟨nofun⟩

/-- No refusal can be raised by the block: the type has no value (`60_exceptions.md` R88). -/
theorem isEmpty_blockRefusal : IsEmpty BlockRefusal := ⟨nofun⟩

/-- All that the block can do, by the listing: it answers the empty record and the evaluation of its inputs. -/
theorem block_eq_evaluate (m : Arch) (p : Inputs) : block m p = .next (m, evaluate p) := by
  rw [block_drives, drives_decode]

/-- Any number of steps of the machine in the spec's types and of the interface's core answer the same next state. -/
theorem exists_run_next (k : Nat) (s : State) :
    ∃ t : State, blockCore.run k s = .next t ∧ Sys2Proof.core.run k s = .next t := by
  induction k generalizing s with
  | zero => exact ⟨s, rfl, rfl⟩
  | succ k ih =>
    rw [blockCore_run_succ k (blockStep_drives s), core_run_succ k (step_drives s)]
    exact ih _

/-! ## The statements -/

/-- Settles O41: a step answers its inputs with their evaluation, which a settled state holds already. -/
theorem everyStepSettlesThePorts : Obligations.EveryStepSettlesThePorts :=
  ⟨fun _ _ => settled_of_step_next, settled_iff_step_eq_self⟩

/-- Settles O43: the record is `evaluate` mapped over the list, and the end state is that of presenting the last inputs, by the two
ways a list can end. -/
theorem hostRunMapsEvaluate : Obligations.HostRunMapsEvaluate := by
  intro ps s
  refine ⟨_, hostRun_eq_map_evaluate ps s, ?_⟩
  obtain rfl | ⟨qs, p, rfl⟩ := ps.eq_nil_or_concat'
  · rfl
  · rw [List.foldl_concat, present_eq_evaluate, List.getLast?_concat]

/-- Settles O40: the outputs written down for power-up are the evaluation of the inputs beside them. -/
theorem resetIsSettled : Obligations.ResetIsSettled := by
  have zero : State.reset.outputs = evaluate State.reset.inputs := by decide
  exact zero

/-- Settles O48: settled at power-up, kept by presenting and by stepping, so settled in every reachable state; and a settled state is
fixed by its inputs. -/
theorem reachableStatesStoreNothing : Obligations.ReachableStatesStoreNothing := by
  have settled : ∀ s, Reachable s → Settled s := by
    intro s reachable
    induction reachable with
    | reset => exact resetIsSettled
    | present s p => exact settled_present s p
    | step s t _ next => exact settled_of_step_next next
  exact ⟨settled, fun s t hs ht => eq_of_settled (settled s hs) (settled t ht)⟩

/-- Settles O38: a step and an instruction answer a driven state, and there is no fault. -/
theorem everyStepCompletes : Obligations.EveryStepCompletes :=
  ⟨fun s => ⟨_, step_drives s⟩, fun i s => ⟨_, exec_drives i s⟩, isEmpty_fault⟩

/-- Settles O46: the one record passes through the block unchanged, and step and block both answer `evaluate` of the inputs. -/
theorem blockHoldsNoState : Obligations.BlockHoldsNoState := by
  refine ⟨arch_eq, block_eq_evaluate, fun s => ⟨_, _, block_eq_evaluate s.arch s.inputs, step_eq_evaluate s⟩, ?_⟩
  intro m p q n o _
  rw [arch_eq n m]

/-- Settles O49: each pair drives the outputs of the one instruction, so that runs agree by induction on their length. -/
theorem interfaceStepIsTheBlockStep : Obligations.InterfaceStepIsTheBlockStep :=
  ⟨fun s => ⟨_, blockStep_drives s, step_drives s⟩, fun s p => ⟨_, evaluation_eq_present s p, step_present s p⟩,
    fun i s => ⟨_, blockExec_drives i s, exec_drives i s⟩, exists_run_next,
    fun i s m => exec_ne_refused i s (.notModelled m)⟩

/-- Settles O25: what an instruction, a step and an evaluation answer is written with the inputs and the empty record alone. -/
theorem nothingIsRetained : Obligations.NothingIsRetained := by
  intro s s' same
  refine ⟨fun i => ?_, ?_, fun p => ?_⟩
  · rw [exec_eq, exec_eq, same, arch_eq s.arch s'.arch]
  · rw [step_eq_evaluate, step_eq_evaluate, same, arch_eq s.arch s'.arch]
  · rw [evaluation_drives, evaluation_drives, arch_eq s.arch s'.arch]

/-- Settles O39: power-up is settled, and an evaluation answers `evaluate` of its inputs from any state, power-up included. -/
theorem powerUpOutputsAreEvaluate : Obligations.PowerUpOutputsAreEvaluate := by
  refine ⟨resetIsSettled, fun s p => ?_⟩
  rw [evaluation_eq_present, evaluation_eq_present, present_eq_evaluate, present_eq_evaluate]
  exact ⟨rfl, rfl⟩

end Sys2Proof.Machine
end

section
/-! PROOFS. The statements about words, bytes, bit lists and assembler lines (`30_encoding.md`, `20_memory.md` R29): R45, R47, R49,
R51. Packing and unpacking are inverse at each layer, and the boundary accepts exactly the lists that are the bits of ports. -/

namespace Sys2Proof.Machine

/-! ## Bytes and table words -/

/-- The byte of an instruction decodes to it, and the bytes after it are left over. -/
theorem decodeBytes_encodeBytes (i : Instr) (rest : List (BitVec 8)) :
    decodeBytes (encodeBytes i ++ rest) = .ok (i, rest) := by
  have low := (Laws.EncodingFields.of_ports i).2 _ (List.mem_singleton_self _)
  have word : ((encode i).setWidth 8).setWidth 7 = encode i := by
    rw [BitVec.setWidth_setWidth_of_le _ (by decide), BitVec.setWidth_eq]
  rw [encodeBytes, List.singleton_append, decodeBytes_cons _ rest low, word, decodeStimulus_encode]

/-- The table word of an instruction is its one byte. -/
theorem tableBytes_encode (i : Instr) : tableBytes 8 (encode i).toNat = encodeBytes i := by
  have small : (encode i).toNat < 256 := Nat.lt_trans (encode i).isLt (by decide)
  rw [tableBytes_byte _ small, BitVec.ofNat_toNat, encodeBytes]

/-- The table word of an instruction decodes to it. -/
theorem decodeTableWord_encode (i : Instr) : decodeTableWord 8 (encode i).toNat = some i := by
  have whole : decodeBytes (encodeBytes i) = .ok (i, []) := decodeBytes_encodeBytes i []
  rw [decodeTableWord, tableBytes_encode, whole]

theorem withFetchWord_of_some {nbits w : Nat} {i : Instr} (h : decodeTableWord nbits w = some i) (s : State) :
    s.withFetchWord nbits w = s.present i.ports := by
  rw [State.withFetchWord, h]

theorem withFetchWord_of_none {nbits w : Nat} (h : decodeTableWord nbits w = none) (s : State) :
    s.withFetchWord nbits w = s := by
  rw [State.withFetchWord, h]

/-! ## The boundary -/

/-- A list of two digits is a pair. -/
theorem exists_pairOfBits {l : List Bit} (h : l.length = 2) : ∃ x, pairOfBits l = some x :=
  Option.ne_none_iff_exists'.mp fun none => (pairOfBits_eq_none l).mp none h

/-- A list of three digits is a triple. -/
theorem exists_tripleOfBits {l : List Bit} (h : l.length = 3) : ∃ x, tripleOfBits l = some x :=
  Option.ne_none_iff_exists'.mp fun none => (tripleOfBits_eq_none l).mp none h

theorem rawInputs_wf_iff (r : RawInputs) : r.wf = true ↔ r.a.length = 2 ∧ r.b.length = 2 ∧ r.op.length = 3 := by
  simp [RawInputs.wf, RawInputs.wfA, RawInputs.wfB, RawInputs.wfOP, and_assoc]

theorem asmLine_wf_iff (l : AsmLine) : l.wf = true ↔ l.a.length = 2 ∧ l.b.length = 2 ∧ l.wfExpected = true := by
  simp [AsmLine.wf, AsmLine.wfA, AsmLine.wfB, and_assoc]

/-- Lists with their ports' lengths reach the ports. -/
theorem exists_accept_of_wf {r : RawInputs} (h : r.wf = true) :
    ∃ p, accept r = .ok p ∧ pairOfBits r.a = some p.A ∧ pairOfBits r.b = some p.B ∧ tripleOfBits r.op = some p.OP := by
  obtain ⟨lengthA, lengthB, lengthOP⟩ := (rawInputs_wf_iff r).mp h
  obtain ⟨a, ha⟩ := exists_pairOfBits lengthA
  obtain ⟨b, hb⟩ := exists_pairOfBits lengthB
  obtain ⟨op, hop⟩ := exists_tripleOfBits lengthOP
  exact ⟨⟨a, b, op⟩, by rw [accept, ha, hb, hop], ha, hb, hop⟩

/-- Only lists with their ports' lengths are accepted. -/
theorem wf_of_accept_ok {r : RawInputs} {p : Inputs} (h : accept r = .ok p) : r.wf = true := by
  rw [accept] at h
  split at h
  case h_4 a b op ha hb hop =>
    rw [rawInputs_wf_iff, (pairOfBits_eq_some _ _).mp ha, (pairOfBits_eq_some _ _).mp hb, (tripleOfBits_eq_some _ _).mp hop]
    exact ⟨rfl, rfl, rfl⟩
  all_goals cases h

/-- A line whose literals have their widths assembles to its mnemonic's instruction on the operands it writes. -/
theorem exists_assemble_of_wf {l : AsmLine} (h : l.wf = true) :
    ∃ a b, assemble l = .ok (l.mnemonic.instr a b) ∧ pairOfBits l.a = some a ∧ pairOfBits l.b = some b := by
  obtain ⟨lengthA, lengthB, expected⟩ := (asmLine_wf_iff l).mp h
  obtain ⟨a, ha⟩ := exists_pairOfBits lengthA
  obtain ⟨b, hb⟩ := exists_pairOfBits lengthB
  exact ⟨a, b, by rw [assemble, ha, hb]; exact if_pos expected, ha, hb⟩

/-- Only a line whose literals have their widths assembles. -/
theorem wf_of_assemble_ok {l : AsmLine} {i : Instr} (h : assemble l = .ok i) : l.wf = true := by
  rw [assemble] at h
  split at h
  case h_3 a b ha hb =>
    rw [asmLine_wf_iff, (pairOfBits_eq_some _ _).mp ha, (pairOfBits_eq_some _ _).mp hb]
    split at h
    case isTrue expected => exact ⟨rfl, rfl, expected⟩
    case isFalse => cases h
  all_goals cases h

/-- An answer of the boundary that is never `ok` is an error. -/
theorem exists_error_of_forall_ne_ok {ε α : Type} {x : Except ε α} (h : ∀ a, x ≠ .ok a) : ∃ e, x = .error e := by
  cases x with
  | error e => exact ⟨e, rfl⟩
  | ok a => exact absurd rfl (h a)

/-! ## The assembler line -/

@[simp] theorem ports_instr_A (m : Mnemonic) (a b : Operand) : (m.instr a b).ports.A = a := by
  cases m <;> rfl

@[simp] theorem ports_instr_B (m : Mnemonic) (a b : Operand) : (m.instr a b).ports.B = b := by
  cases m <;> rfl

/-- An assembled line holds exactly when the outputs it states, if any, are those that its instruction drives. -/
theorem lineHolds_iff_of_assemble {l : AsmLine} {i : Instr} (h : assemble l = .ok i) (s : State) :
    lineHolds l s = true ↔
      ∀ e, l.expected = some e → e = ([(drives i).R.getLsbD 1, (drives i).R.getLsbD 0], (drives i).F) := by
  simp only [lineHolds, h, respond_ports, Option.all_eq_true, Bool.and_eq_true, beq_iff_eq, pairOfBits_eq_some,
    Prod.ext_iff]

/-- A line that does not assemble does not hold. -/
theorem lineHolds_of_assemble_error {l : AsmLine} {e : BoundaryReject} (h : assemble l = .error e) (s : State) :
    lineHolds l s = false := by
  rw [lineHolds, h]

/-! ## The statements -/

/-- Settles O3: each layer of packing undoes the one below it, from the ports through the word and the byte to the table word. -/
theorem decodeInvertsEncode : Obligations.DecodeInvertsEncode :=
  fun i => ⟨decode_ports i, decodeStimulus_encode i, decodeBytes_encodeBytes i, decodeTableWord_encode i⟩

/-- Settles O5: the value is that of the three fields, and unpacking reads them back. -/
theorem stimulusWordLayout : Obligations.StimulusWordLayout := by
  intro p
  have unpacked := ofStimulus_stimulus p
  exact ⟨toNat_stimulus p, Nat.le_of_lt_succ p.stimulus.isLt, congrArg Inputs.OP unpacked, congrArg Inputs.A unpacked,
    congrArg Inputs.B unpacked, unpacked⟩

/-- Settles O8: lists of the right lengths are pairs and a triple, whose digits are the ports' bits, and only such lists are
accepted. -/
theorem malformedInputIsRejectedAtTheBoundary : Obligations.MalformedInputIsRejectedAtTheBoundary := by
  refine fun r => ⟨fun well => ?_, fun ill => exists_error_of_forall_ne_ok fun p ok => ?_⟩
  · obtain ⟨p, accepted, ha, hb, hop⟩ := exists_accept_of_wf well
    exact ⟨p, accepted, (pairOfBits_eq_some _ _).mp ha, (pairOfBits_eq_some _ _).mp hb, (tripleOfBits_eq_some _ _).mp hop⟩
  · rw [wf_of_accept_ok ok] at ill
    cases ill

/-- Settles O9: a well-formed line assembles to its mnemonic's instruction, which the host presents and whose triple the line is
compared with; only well-formed lines assemble. -/
theorem assemblerLineIsOneEvaluation : Obligations.AssemblerLineIsOneEvaluation := by
  refine fun l s => ⟨fun well => ?_, fun ill => ?_⟩
  · obtain ⟨a, b, assembled, ha, hb⟩ := exists_assemble_of_wf well
    refine ⟨_, _, assembled, respond_ports s _, ?_, ?_, ?_, lineHolds_iff_of_assemble assembled s⟩
    · rw [ports_instr_A]; exact (pairOfBits_eq_some _ _).mp ha
    · rw [ports_instr_B]; exact (pairOfBits_eq_some _ _).mp hb
    · cases l.mnemonic <;> rfl
  · have rejected : ∃ e, assemble l = .error e := exists_error_of_forall_ne_ok fun i ok => by
      rw [wf_of_assemble_ok ok] at ill
      cases ill
    obtain ⟨e, error⟩ := rejected
    exact ⟨⟨e, error⟩, lineHolds_of_assemble_error error s⟩

/-- Settles O1: each word written out is the table word of its instruction. -/
theorem writtenOutWordsDecode : Obligations.WrittenOutWordsDecode :=
  ⟨decodeTableWord_encode (.and 0b11#2 0b01#2), decodeTableWord_encode (.or 0b10#2 0b01#2),
    decodeTableWord_encode (.xor 0b01#2 0b11#2), decodeTableWord_encode (.not 0b10#2 0b01#2),
    decodeTableWord_encode (.add 0b11#2 0b01#2), decodeTableWord_encode (.sub 0b01#2 0b10#2),
    decodeTableWord_encode (.unk6 0b11#2 0b11#2), decodeTableWord_encode (.unk7 0b01#2 0b10#2)⟩

/-- Settles O2: a step runs the instruction on the ports, and a word that decodes to `i` puts `i` there. -/
theorem stepRunsTheDecodedInstruction : Obligations.StepRunsTheDecodedInstruction := by
  refine ⟨step_eq_exec, fun s nbits w i decodes => ?_, fun s nbits w rejected => withFetchWord_of_none rejected s⟩
  have onPorts : decode (s.present i.ports).inputs = i := by rw [present_inputs, decode_ports]
  rw [withFetchWord_of_some decodes, step_eq_exec, onPorts]
  exact ⟨rfl, rfl, rfl⟩

/-- Settles O27: what the host reads back from the three does not mention the ignored operands. -/
theorem ignoredOperandBits : Obligations.IgnoredOperandBits := by
  intro s a a' b b'
  rw [respond_not, respond_not, respond_unk6, respond_unk6, respond_unk7, respond_unk7]
  exact ⟨rfl, rfl, rfl⟩

end Sys2Proof.Machine
end

section
/-! PROOFS. The statements about the gate structure (`40_dispatch.md` R55 to R58). The decoder is one-hot, so at each opcode value one
term of each OR is left, and that term is the selected unit's net. -/

namespace Sys2Proof.Machine

/-! ## The decoder -/

/-- The select lines are the one-hot code of the opcode's value (`40_dispatch.md` R55). -/
theorem SEL_eq_twoPow (op : Opcode) : SEL op = BitVec.twoPow 8 op.toNat := by
  revert op; decide

/-- Line `k` is selected exactly at the opcode value `k`. -/
theorem getLsbD_SEL (op : Opcode) (k : Nat) : (SEL op).getLsbD k = decide (op.toNat = k) := by
  have range : op.toNat < 8 := op.isLt
  rw [SEL_eq_twoPow, BitVec.getLsbD_twoPow, decide_eq_true range, Bool.true_and]

/-! ## The selection -/

/-- The label that the select lines carry is the label of the opcode's value (`40_dispatch.md` R56). -/
theorem labelOf_eq_selectedLabel (op : Opcode) : labelOf op = selectedLabel op := by
  unfold labelOf
  simp only [selectedLabel, getLsbD_SEL, decide_eq_true_eq]
  split <;> simp_all

/-- The AND-OR selection puts the nets of the selected unit on the outputs, by opcode value (`40_dispatch.md` R57). -/
theorem circuit_eq_evaluate (p : Inputs) : circuit p = evaluate p := by
  simp only [circuit, getLsbD_SEL, ← labelOf_eq_selectedLabel]
  unfold evaluate
  split
  case h_1 | h_2 | h_3 | h_4 => simp [*, logicUnit, bit1, bit0]
  case h_5 => simp [*, adder, addFlag, carry, xor3, bit1, bit0]
  case h_6 => simp [*, subtractor, subFlag, carry, xor3, bit1, bit0]
  case h_7 => simp_all

/-! ## The statements -/

/-- Settles O19: the structure drives the listing's evaluation, which is what the step drives. -/
theorem circuitDrivesTheStep : Obligations.CircuitDrivesTheStep := by
  intro s
  rw [circuit_eq_evaluate, step_eq_evaluate]

/-- Settles O20: the select lines are a one-hot code. -/
theorem exactlyOneSelectLine : Obligations.ExactlyOneSelectLine := by
  intro op k _
  rw [getLsbD_SEL, decide_eq_true_eq]

end Sys2Proof.Machine
end

section
/-! PROOFS. The laws of the logic unit (`41_logic.md`, Properties of the logic unit). The result bits of its instructions are bit vector
operations, so its laws over chained evaluations are laws of those operations. -/

namespace Sys2Proof.Machine

theorem resultOf_and (s : State) (a b : Operand) : s.resultOf 0b000#3 a b = some (a &&& b) := by
  rw [State.resultOf, respond_and]; rfl

theorem resultOf_or (s : State) (a b : Operand) : s.resultOf 0b001#3 a b = some (a ||| b) := by
  rw [State.resultOf, respond_or]; rfl

/-- Exclusive OR by OR, AND and NOT. -/
theorem xor_eq_or_and_not_and (a b : Operand) : a ^^^ b = (a ||| b) &&& ~~~(a &&& b) := by
  refine BitVec.eq_of_getLsbD_eq fun i hi => ?_
  rw [BitVec.getLsbD_xor, BitVec.getLsbD_and, BitVec.getLsbD_or, BitVec.getLsbD_not, BitVec.getLsbD_and, decide_eq_true hi,
    Bool.true_and]
  cases a.getLsbD i <;> cases b.getLsbD i <;> rfl

/-- Settles O29: fed back by the host, each result is the operand of the next operation, and each law is one of bit vectors. -/
theorem logicUnitLaws : Obligations.LogicUnitLaws := by
  intro s a b x x'
  have and_ones : a &&& 3#2 = a := BitVec.and_allOnes
  have or_ones : a ||| 3#2 = 3#2 := BitVec.or_allOnes
  have xor_ones : a ^^^ 3#2 = ~~~a := BitVec.xor_allOnes
  simp only [BitVec.ofNat_eq_ofNat, resultOf_and, resultOf_or, resultOf_xor, resultOf_not, Option.bind_some, Option.map_some]
  refine ⟨⟨?_, ?_, ?_⟩, ⟨?_, ?_, ?_⟩, ⟨?_, ?_, ?_⟩, ⟨?_, ?_⟩, ?_, ⟨?_, ?_⟩, ?_, ?_, ?_⟩
  · rw [BitVec.and_comm]
  · rw [BitVec.or_comm]
  · rw [BitVec.xor_comm]
  · rw [BitVec.and_self]
  · rw [BitVec.or_self]
  · rw [BitVec.xor_self]
  · rw [and_ones]
  · rw [BitVec.or_zero]
  · rw [BitVec.xor_zero]
  · rw [BitVec.and_zero]
  · rw [or_ones]
  · rw [BitVec.toNat_not]
  · rw [xor_ones]
  · rw [BitVec.not_not]
  · rw [BitVec.not_and]
  · rw [BitVec.not_or]
  · rw [← xor_eq_or_and_not_and]

end Sys2Proof.Machine
end

section
/-! PROOFS. The laws of the adder (`42_add.md` R69 to R71). Its result is the sum modulo 4 and its flag the carry out of bit 0, so the
laws are those of bit vector addition, and the flag reads as the carry of the sum where it happens to be that carry. -/

namespace Sys2Proof.Machine

theorem resultOf_add (s : State) (a b : Operand) : s.resultOf 0b100#3 a b = some (a + b) := by
  rw [State.resultOf, respond_add]; rfl

/-- Bit 0 is the parity of the value. -/
theorem getLsbD_zero_iff_odd (x : BitVec 2) : x.getLsbD 0 = true ↔ x.toNat % 2 = 1 := by
  rw [← BitVec.testBit_toNat, Nat.testBit_zero, decide_eq_true_eq]

/-- A pair that has the value of `n` modulo 4 is `vec2` of it. -/
theorem eq_vec2_of_toNat {x : BitVec 2} {n : Int} (h : (x.toNat : Int) = n % 4) : x = vec2 (n % 4) := by
  rw [vec2, ← h, BitVec.ofInt_natCast, BitVec.ofNat_toNat, BitVec.setWidth_eq]

/-- A flag beside a sum modulo 4 completes it exactly when the flag is the carry of the sum (`42_add.md` R70). -/
theorem flag_completes_sum_iff (f : Bit) {n : Nat} (range : n < 8) : 4 * f.toNat + n % 4 = n ↔ (f = true ↔ 4 ≤ n) := by
  cases f with
  | false => simp only [Bool.toNat_false, Bool.false_eq_true, false_iff]; omega
  | true => simp only [Bool.toNat_true, true_iff]; omega

/-- The four pairs on which the bit-0 carry is not the carry of the sum, from the table of all sixteen (`42_add.md` R69). -/
theorem odd_iff_carry_iff_notMem (a b : Operand) :
    ((a.toNat % 2 = 1 ∧ b.toNat % 2 = 1) ↔ 4 ≤ a.toNat + b.toNat) ↔
      (a.toNat, b.toNat) ∉ [(1, 1), (2, 2), (2, 3), (3, 2)] := by
  revert a b; decide

/-- Settles O30: the result is the bit vector sum, which wraps at 4. -/
theorem addIsTheSumModuloFour : Obligations.AddIsTheSumModuloFour :=
  fun s a b => ⟨_, _, respond_add s a b, BitVec.toNat_add a b, rfl⟩

/-- Settles O31: the flag is the bit-0 carry, so it needs two odd operands; the table has the pairs on which that is no carry of the
sum, and only a carry completes the sum. -/
theorem addFlagIsNotTheCarryOfTheSum : Obligations.AddFlagIsNotTheCarryOfTheSum := by
  intro s a b
  have odd : (a.getLsbD 0 && b.getLsbD 0) = true ↔ a.toNat % 2 = 1 ∧ b.toNat % 2 = 1 := by
    rw [Bool.and_eq_true, getLsbD_zero_iff_odd, getLsbD_zero_iff_odd]
  refine ⟨_, _, respond_add s a b, odd, rfl, ?_, ?_⟩
  · rw [odd]; exact odd_iff_carry_iff_notMem a b
  · have range : a.toNat + b.toNat < 8 := Nat.add_lt_add a.isLt b.isLt
    rw [BitVec.toNat_add]; exact flag_completes_sum_iff _ range

/-- Settles O32: the corner cases of ADD for zero and doubling, and laws of bit vector addition for the others. -/
theorem addLaws : Obligations.AddLaws := by
  intro s a b c x
  obtain ⟨_, _, corners, _⟩ := addDrivesTheRippleCarrySum
  obtain ⟨zero, _, doubled⟩ := corners a s
  refine ⟨?_, zero, doubled, ?_, ?_, ?_⟩
  · rw [respond_add, respond_add, BitVec.add_comm, Bool.and_comm]
  · have successor : a + 0b01#2 = vec2 ((val a + 1 : Int) % 4) := eq_vec2_of_toNat (by
      rw [val_eq_toNat, BitVec.toNat_add]; rfl)
    have one_odd : (0b01#2).getLsbD 0 = true := rfl
    rw [respond_add, successor, one_odd, Bool.and_true]
  · have ones : a + ~~~a = 0b11#2 := BitVec.add_not_self a
    have never_both : (a.getLsbD 0 && (~~~a).getLsbD 0) = false := by
      rw [BitVec.getLsbD_not, decide_eq_true Nat.two_pos, Bool.true_and, Bool.and_not_self]
    rw [resultOf_not, Option.bind_some, respond_add, ones, never_both]
  · rw [resultOf_add, resultOf_add, Option.bind_some, Option.bind_some, resultOf_add, resultOf_add, BitVec.add_assoc]

end Sys2Proof.Machine
end

section
/-! PROOFS. The laws of the subtractor (`43_sub.md` R74 to R79), and the block's one outcome (`60_exceptions.md` R88). SUB's result is the
reversed difference of the reversed operands and its flag the borrow of that difference. Written with its borrows, that result is the
conventional difference exactly where neither of the two has a borrow. -/

namespace Sys2Proof.Machine

/-! ## The nets as a ripple-borrow subtractor -/

/-- With a carry-in of 1, a position carries unless it borrows. -/
theorem carry_not_true (x y : Bit) : carry x (!y) true = (x || !y) := by
  cases x <;> cases y <;> rfl

/-- The complements of an operand bit and of the carry-in cancel in a difference bit. -/
theorem xor3_not (x y c : Bit) : xor3 x (!y) c = ((x ^^ y) ^^ !c) := by
  cases x <;> cases y <;> cases c <;> rfl

/-- The complement of a position's carry-out is the borrow-out of a ripple-borrow position. -/
theorem subFlag_carry_not (x y c : Bit) : subFlag (carry x (!y) c) = ((!x && y) || ((!x || y) && !c)) := by
  cases x <;> cases y <;> cases c <;> rfl

/-- The complement of the first carry is the borrow of bit 1 (`43_sub.md` R74, `b_first`). -/
theorem not_subtractor_c_first (a b : Operand) : (!(subtractor a b).c_first) = (!bit1 a && bit1 b) := by
  have carries : (subtractor a b).c_first = (bit1 a || !bit1 b) := carry_not_true (bit1 a) (bit1 b)
  rw [carries, Bool.not_or, Bool.not_not]

theorem subtractor_d_first (a b : Operand) : (subtractor a b).d_first = (bit1 a ^^ bit1 b) := by
  have first : (subtractor a b).d_first = ((bit1 a ^^ bit1 b) ^^ !true) := xor3_not (bit1 a) (bit1 b) true
  rw [first, Bool.not_true, Bool.xor_false]

theorem subtractor_d_second (a b : Operand) :
    (subtractor a b).d_second = ((bit0 a ^^ bit0 b) ^^ (!bit1 a && bit1 b)) := by
  have second : (subtractor a b).d_second = ((bit0 a ^^ bit0 b) ^^ !(subtractor a b).c_first) :=
    xor3_not (bit0 a) (bit0 b) (subtractor a b).c_first
  rw [second, not_subtractor_c_first]

/-! ## The two differences, bit by bit -/

theorem vec_inj {hi lo hi' lo' : Bit} : vec hi lo = vec hi' lo' ↔ hi = hi' ∧ lo = lo' := by
  refine ⟨fun h => ⟨?_, ?_⟩, ?_⟩
  · rw [← bit1_vec hi lo, h, bit1_vec]
  · rw [← bit0_vec hi lo, h, bit0_vec]
  · rintro ⟨rfl, rfl⟩; rfl

/-- SUB's difference, by its bits: bit 1 has no borrow-in, and bit 0 has bit 1's borrow. -/
theorem rev_sub_rev_eq_vec (a b : Operand) :
    rev (rev a - rev b) = vec (bit1 a ^^ bit1 b) ((bit0 a ^^ bit0 b) ^^ (!bit1 a && bit1 b)) := by
  rw [← vec_subtractor, subtractor_d_first, subtractor_d_second]

/-- The conventional difference, by its bits: bit 0 has no borrow-in, and bit 1 has bit 0's borrow. -/
theorem sub_eq_vec (a b : Operand) : a - b = vec ((bit1 a ^^ bit1 b) ^^ (!bit0 a && bit0 b)) (bit0 a ^^ bit0 b) := by
  have reversed := congrArg rev (rev_sub_rev_eq_vec (rev a) (rev b))
  simpa [rev] using reversed

theorem xor_eq_vec (a b : Operand) : a ^^^ b = vec (bit1 a ^^ bit1 b) (bit0 a ^^ bit0 b) :=
  (vec_eq_of_getLsbD BitVec.getLsbD_xor BitVec.getLsbD_xor).symm

/-- The conventional difference is the difference of the values modulo 4. -/
theorem val_sub (x y : BitVec 2) : (val (x - y) : Int) = ((val x : Int) - val y) % 4 := by
  have range := y.isLt
  rw [val_eq_toNat, val_eq_toNat, val_eq_toNat, BitVec.toNat_sub]
  omega

theorem sub_eq_vec2 (x y : BitVec 2) : x - y = vec2 (((val x : Int) - val y) % 4) :=
  eq_vec2_of_toNat (by rw [← val_eq_toNat, val_sub])

/-- The borrow of a difference compares the values. -/
theorem ult_iff_val_lt (x y : BitVec 2) : x.ult y = true ↔ val x < val y := by
  rw [val_eq_toNat, val_eq_toNat, BitVec.ult_iff_toNat_lt]

/-- From zero, every other subtrahend borrows. -/
theorem zero_ult_rev (b : Operand) : (rev 0b00#2).ult (rev b) = decide (b ≠ 0) := by
  revert b; decide

/-! ## Where no position borrows -/

/-- Every 1 of `b` is a 1 of `a` exactly where neither position borrows. -/
theorem and_not_eq_zero_iff (a b : Operand) :
    b &&& ~~~a = 0 ↔ (!bit1 a && bit1 b) = false ∧ (!bit0 a && bit0 b) = false := by
  have bits : b &&& ~~~a = vec (!bit1 a && bit1 b) (!bit0 a && bit0 b) := by
    rw [not_eq_vec]
    refine (vec_eq_of_getLsbD ?_ ?_).symm
    · rw [BitVec.getLsbD_and, getLsbD_vec_one, Bool.and_comm]; rfl
    · rw [BitVec.getLsbD_and, getLsbD_vec_zero, Bool.and_comm]; rfl
  have zero : (0 : BitVec 2) = vec false false := rfl
  rw [bits, zero, vec_inj]

/-- SUB gives the conventional difference exactly where neither position borrows: bit 0 of the two differs by bit 1's borrow, and bit
1 by bit 0's (`43_sub.md` R78). -/
theorem rev_sub_rev_eq_sub_iff (a b : Operand) : rev (rev a - rev b) = a - b ↔ b &&& ~~~a = 0 := by
  rw [rev_sub_rev_eq_vec, sub_eq_vec, vec_inj, and_not_eq_zero_iff]
  have unchanged (d borrow : Bit) : (d ^^ borrow) = d ↔ borrow = false := by cases d <;> cases borrow <;> decide
  rw [eq_comm, unchanged, unchanged, and_comm]

/-- Where neither position borrows, SUB's result is the exclusive OR. -/
theorem rev_sub_rev_eq_xor {a b : Operand} (subset : b &&& ~~~a = 0) : rev (rev a - rev b) = a ^^^ b := by
  obtain ⟨no_borrow, _⟩ := (and_not_eq_zero_iff a b).mp subset
  rw [rev_sub_rev_eq_vec, no_borrow, Bool.xor_false, xor_eq_vec]

/-- A bit that does not borrow is at least the bit taken from it. -/
theorem toNat_le_of_no_borrow {x y : Bit} (h : (!x && y) = false) : y.toNat ≤ x.toNat := by
  revert x y; decide

/-- Where neither position borrows, no difference does, whichever bit is the high one. -/
theorem val_le_of_subset {a b : Operand} (subset : b &&& ~~~a = 0) : val b ≤ val a ∧ val (rev b) ≤ val (rev a) := by
  obtain ⟨no_borrow1, no_borrow0⟩ := (and_not_eq_zero_iff a b).mp subset
  have le1 := toNat_le_of_no_borrow no_borrow1
  have le0 := toNat_le_of_no_borrow no_borrow0
  rw [val_rev, val_rev, val, val]
  omega

/-- The seven pairs with a borrow, from the table of all sixteen (`43_sub.md` R75). -/
theorem not_subset_iff_mem (a b : Operand) :
    b &&& ~~~a ≠ 0 ↔ (a.toNat, b.toNat) ∈ [(0, 1), (0, 2), (0, 3), (1, 2), (1, 3), (2, 1), (2, 3)] := by
  revert a b; decide

/-- The two pairs on which the reversed borrow is not the conventional one, from the same table. -/
theorem reversed_borrow_iff_notMem (a b : Operand) :
    ((rev a).ult (rev b) = true ↔ a.toNat < b.toNat) ↔ (a.toNat, b.toNat) ∉ [(1, 2), (2, 1)] := by
  revert a b; decide

/-! ## The statements -/

/-- Settles O33: the nets of both positions, with the complement of the first carry for the borrow. -/
theorem subtractorSimplifiedForms : Obligations.SubtractorSimplifiedForms := by
  intro a b
  refine ⟨subtractor_d_first a b, carry_not_true (bit1 a) (bit1 b), _, rfl, not_subtractor_c_first a b, ?_, ?_⟩
  · exact xor3_not (bit0 a) (bit0 b) (subtractor a b).c_first
  · exact subFlag_carry_not (bit0 a) (bit0 b) (subtractor a b).c_first

/-- Settles O34: reversing the result again leaves the difference of the reversed operands, whose bits have exchanged weights. -/
theorem subIsTheReversedDifference : Obligations.SubIsTheReversedDifference := by
  intro s a b
  refine ⟨_, _, respond_sub s a b, ?_, ?_⟩
  · rw [rev_rev, sub_eq_vec2]
  · have weights (x : BitVec 2) : (2 * (x.getLsbD 0).toNat + (x.getLsbD 1).toNat : Int) = val (rev x) := by
      rw [val_rev]; rfl
    rw [weights, weights, weights, rev_rev, val_sub]

/-- Settles O35: the flag compares the reversed operands, whose bits have exchanged weights; the table has the pairs on which that is
not the conventional comparison. -/
theorem subFlagIsTheReversedBorrow : Obligations.SubFlagIsTheReversedBorrow := by
  intro s a b
  refine ⟨_, _, respond_sub s a b, ?_, reversed_borrow_iff_notMem a b⟩
  rw [ult_iff_val_lt, val_rev, val_rev]
  rfl

/-- Settles O36: the two results agree exactly where neither position borrows, and there both flags are 0; NOT, ADD and ADD add the
two's complement. -/
theorem subAgainstConventionalSubtraction : Obligations.SubAgainstConventionalSubtraction := by
  intro s a b x
  have result : rev (rev a - rev b) = vec2 (((val a : Int) - val b) % 4) ↔ b &&& ~~~a = 0 := by
    rw [← sub_eq_vec2, rev_sub_rev_eq_sub_iff]
  have flag (subset : b &&& ~~~a = 0) : (rev a).ult (rev b) = false := by
    rw [← Bool.not_eq_true, ult_iff_val_lt, not_lt]
    exact (val_le_of_subset subset).2
  have borrow (subset : b &&& ~~~a = 0) : ¬ a.toNat < b.toNat := by
    rw [← val_eq_toNat, ← val_eq_toNat, not_lt]
    exact (val_le_of_subset subset).1
  refine ⟨_, _, respond_sub s a b, ⟨fun agree => result.mp agree.1, fun subset => ⟨result.mpr subset, ?_⟩⟩,
    fun subset => ⟨rev_sub_rev_eq_xor subset, flag subset⟩, not_subset_iff_mem a b, ?_, result⟩
  · rw [flag subset]
    exact iff_of_false Bool.false_ne_true (borrow subset)
  · rw [resultOf_not, Option.bind_some, resultOf_add, Option.bind_some, resultOf_add, ← sub_eq_vec2, BitVec.sub_eq_add_neg,
      BitVec.neg_eq_not_add, BitVec.add_assoc]

/-- Settles O37: the corner cases of SUB, the difference from zero, the first position's net, and reversals that cancel. -/
theorem subLaws : Obligations.SubLaws := by
  intro s a b
  obtain ⟨_, _, corners, examples⟩ := subDrivesTheComplementSum
  obtain ⟨equal, fromZero, _⟩ := corners a s
  obtain ⟨_, _, ones⟩ := corners b s
  obtain ⟨_, _, _, two_one, one_two⟩ := examples s
  refine ⟨equal, fromZero, ones, ?_, ⟨_, _, respond_sub s a b, ?_⟩, one_two, two_one, _, _, respond_sub s _ _, ?_, ?_⟩
  · have difference : rev 0b00#2 - rev b = vec2 ((4 - val (rev b) : Int) % 4) := eq_vec2_of_toNat (by
      have zero : val (rev 0b00#2) = 0 := rfl
      rw [← val_eq_toNat, val_sub, zero]
      omega)
    rw [respond_sub, difference, zero_ult_rev]
  · rw [rev_sub_rev_eq_vec, getLsbD_vec_one]; rfl
  · rw [rev_rev, rev_rev, rev_rev, sub_eq_vec2]
  · rw [rev_rev, rev_rev, ult_iff_val_lt]

/-- Settles O47: the block drives the outputs of the instruction that its inputs are, by opcode value: the fallback, the sum modulo 4,
or the reversed difference. -/
theorem blockHasOneOutcome : Obligations.BlockHasOneOutcome := by
  refine ⟨isEmpty_fault, isEmpty_blockRefusal, fun m p => ⟨_, block_drives m p, fun undefined => ?_, fun add => ?_, fun sub => ?_⟩⟩
  · have value : 6 ≤ p.OP.toNat := by omega
    rw [drives_decode_of_six_le p value, fallback_eq]
  · have selected : decode p = .add p.A p.B := decode_of_toNat_opcode add rfl
    rw [selected, drives_add]
    exact ⟨BitVec.toNat_add _ _, rfl⟩
  · have selected : decode p = .sub p.A p.B := decode_of_toNat_opcode sub rfl
    rw [selected, drives_sub]
    exact ⟨by rw [rev_rev, val_sub], ult_iff_val_lt _ _⟩

end Sys2Proof.Machine
end
